-- ==== Sys2Proof/Word.lean ====
section
/-! DEFINITION. The word types of the block: a byte of the stream (R8, R12), a 16-bit field (R9, R26), and the shape of a
sequence of exactly n bytes (R13, R60). -/

namespace Sys2Proof

/-- BYTE, "width of a stream element": 8 bits (R8). -/
abbrev Byte := BitVec 8

/-- A 16-bit telemetry field (R9, R26). -/
abbrev Half := BitVec 16

/-- A sequence of exactly `n` bytes, the byte at offset 0 first (R13: `F[0] .. F[n-1]`, with `|F| = n`). -/
abbrev Bytes (n : Nat) := { l : List Byte // l.length = n }

end Sys2Proof
end

