-- ==== Sys2Proof/Config.lean ====
section
/-! DEFINITION. The fixed parameters of the block (R8), the open texts (R11) and the free values of the model. -/

namespace Sys2Proof.Config

/-- FRAME_LEN: bytes in a combined frame (R8). -/
def frameLen : Nat := 48
/-- SUB_LEN: bytes in each sub-frame (R8). -/
def subLen : Nat := 24
/-- START_MARKER (R8). UNVERIFIED against heater traffic (R10, N9). -/
def startMarker : Byte := 0x76
/-- CMD_END_OFF: offset of the command end-marker byte (R8). -/
def cmdEndOff : Nat := 21
/-- CMD_END_BAD: the value at CMD_END_OFF that fails the frame (R8). -/
def cmdEndBad : Byte := 0x00
/-- RESP_START_OFF: offset of the second start marker (R8). -/
def respStartOff : Nat := 24
/-- RESP_END_OFF: offset of the response end-marker byte (R8). -/
def respEndOff : Nat := 45
/-- RESP_END_OK: the only value at RESP_END_OFF that passes (R8). -/
def respEndOk : Byte := 0x00
/-- CMD_CHECK_LEN: buffer length at which the command check runs (R8). -/
def cmdCheckLen : Nat := 24
/-- RUN_STATE_MAX: largest defined run-state code (R8). -/
def runStateMax : Byte := 8
/-- ERROR_CODE_MAX: largest defined error code (R8). -/
def errorCodeMax : Byte := 10

/-- The open entries of RUN_STATE_TEXT (R11 (a), U6, N3): the source gives no text for codes 1 to 7. Only
`runStateText` reads it, and only there. Log 13. -/
opaque openRunStateText : Fin 9 → String

/-- The open entries of ERROR_CODE_TEXT (R11 (b), U7, N3): the source gives no text for codes 1 to 9. Log 13. -/
opaque openErrorCodeText : Fin 11 → String

/-- RUN_STATE_TEXT (R11 (a), R120): entries 0 and 8 are the Glossary's, the others are open. -/
def runStateText (c : Fin 9) : String :=
  if c = 0 then "Off/Standby" else if c = 8 then "Cooldown" else openRunStateText c

/-- ERROR_CODE_TEXT (R11 (b), R120): entries 0 and 10 are the Glossary's, the others are open. -/
def errorCodeText (c : Fin 11) : String :=
  if c = 0 then "No Error" else if c = 10 then "Temperature Sensor Failure" else openErrorCodeText c

/-- "Unknown Run State", the fixed sentinel text (R15). -/
def unknownRunState : String := "Unknown Run State"

/-- "Unknown Error Code", the fixed sentinel text (R15). -/
def unknownErrorCode : String := "Unknown Error Code"

/-- FREE VALUE: what field number `field` of LATEST holds after RESET number `draw` of a run (R32 and R140 give it no
value). Nothing is known of it. Log 4. -/
opaque freeWord (draw field : Nat) : Half

end Sys2Proof.Config
end

