-- ==== Sys2Proof/Syntax.lean ====
section
/-! DEFINITION. The operations of the block: one constructor for each row of the opcode table (R65, R71, R72). -/

namespace Sys2Proof

/-- The fourteen operations. A byte-step operation carries the fields of its selector word (R64) that its row leaves free:
the byte `b` being consumed and, where the row does not fix it, BUF_LEN before the step. -/
inductive Instr where
  /-- SYNC_START (R82): begin a frame. The byte is the start marker, which row 1 fixes. -/
  | syncStart
  /-- SYNC_DISCARD (R83): drop a byte while waiting. -/
  | syncDiscard (b : Byte)
  /-- SYNC_RESERVED_W (R87): WAIT with BUF_LEN not 0. -/
  | syncReservedW (len : BitVec 6) (b : Byte)
  /-- SYNC_RESERVED_A0 (R87): ACC with BUF_LEN 0. -/
  | syncReservedA0 (b : Byte)
  /-- SYNC_RESERVED_AHI (R87): ACC with BUF_LEN 48 to 63. -/
  | syncReservedAhi (len : BitVec 6) (b : Byte)
  /-- SYNC_CMD_CHECK (R85): append the 24th byte and check the command end marker. -/
  | syncCmdCheck (b : Byte)
  /-- SYNC_FRAME_CHECK (R86): append the 48th byte, check the response markers, emit or discard. -/
  | syncFrameCheck (b : Byte)
  /-- SYNC_APPEND (R84): accumulate a byte. -/
  | syncAppend (len : BitVec 6) (b : Byte)
  /-- DECODE (R100): map the frame on the decoder's frame input to a record; the length is 48. -/
  | decode
  /-- DECODE_LEN_ERR (R101): any other length `n`. -/
  | decodeLenErr (n : Nat)
  /-- RESET (R140). `feed` is the other strobe bit at the same edge, which RESET overrides (R131, D22). -/
  | reset (feed : Bool)
  /-- FEED (R90, R133). -/
  | feed
  /-- READ_LATEST (R138). -/
  | readLatest
  /-- READ_STATUS (R139). -/
  | readStatus
  deriving DecidableEq, Repr

end Sys2Proof
end

