-- ==== Sys2Proof/WellFormed.lean ====
section
/-! DEFINITION. Which operations the encodings admit: the "condition in words" of each row of the operation map (R65) and of
the length word (R71). -/

namespace Sys2Proof

/-- BUF_LEN values that row 8 of R65 leaves to SYNC_APPEND: 1..22 or 24..46. -/
def isAppendLen (len : BitVec 6) : Bool :=
  1 ≤ len.toNat && len.toNat ≤ 46 && len.toNat != 23

/-- The checks of R65 and R71. A length word is 6 bits wide (R71), so `decodeLenErr n` has a word only for `n` up to 63;
its meaning is defined for every `n` (R101). -/
def Instr.wellFormed : Instr → Bool
  | .syncStart => true
  | .syncDiscard b => b != Config.startMarker
  | .syncReservedW len _ => len != 0
  | .syncReservedA0 _ => true
  | .syncReservedAhi len _ => 48 ≤ len.toNat
  | .syncCmdCheck _ => true
  | .syncFrameCheck _ => true
  | .syncAppend len _ => isAppendLen len
  | .decode => true
  | .decodeLenErr n => n != Config.frameLen && n < 64
  | .reset _ => true
  | .feed => true
  | .readLatest => true
  | .readStatus => true

end Sys2Proof
end

