-- ==== Sys2Proof/Decode.lean ====
section
/-! DEFINITION. The encodings: the selector word and its priority table (R64, R65), the decoder's length word (R71), the host
strobe word (R72); the decoder over them, total, with each rejection by name; and the encoder. -/

namespace Sys2Proof

/-- Where a word arrives. The block stores no instruction words: each format has its own place at the block's boundary
(R64, R71, R72). -/
inductive Channel where
  /-- The selector word the synchronizer forms from its state and the byte at the head of STREAM (R64). -/
  | selector
  /-- The decoder sub-block's length input (R71). -/
  | decLen
  /-- The host control strobes (R72). -/
  | strobe
  /-- A sample of rec_valid and rec_*: no word at all (R72). -/
  | recPorts
  /-- A sample of status: no word at all (R72). -/
  | statusPort
  deriving DecidableEq, Repr

/-- Why a word names no operation. -/
inductive DecodeError where
  /-- The word does not fit the 15 bits of the selector word (R64). -/
  | selectorTooWide
  /-- No row of R65 matches; R65 says that never happens. -/
  | noSelectorRow
  /-- The length does not fit the 6-bit length input (R137, U11). -/
  | lengthTooWide
  /-- The word does not fit the 2 strobe bits (R72). -/
  | strobeTooWide
  /-- Neither strobe is asserted, so no operation is invoked (R72). -/
  | noStrobe
  /-- A sample has no encoding (R72). -/
  | sampleHasNoWord
  deriving DecidableEq, Repr

/-- The selector word: `SEL[14]` = SYNC_STATE, `SEL[13:8]` = BUF_LEN, `SEL[7:0]` = b (R64). -/
def selectorWord (sync : BitVec 1) (len : BitVec 6) (b : Byte) : BitVec 15 := sync ++ len ++ b

/-- `SEL[14]` (R64). -/
def selSync (w : BitVec 15) : BitVec 1 := w.extractLsb' 14 1
/-- `SEL[13:8]` (R64). -/
def selLen (w : BitVec 15) : BitVec 6 := w.extractLsb' 8 6
/-- `SEL[7:0]` (R64). -/
def selByte (w : BitVec 15) : Byte := w.extractLsb' 0 8

/-- The eight operations of the operation map (R65). -/
inductive SelOp where
  | start | discard | reservedW | reservedA0 | reservedAhi | cmdCheck | frameCheck | append
  deriving DecidableEq, Repr

/-- One row of the operation map (R65). -/
structure SelRow where
  op : SelOp
  mask : BitVec 15
  pattern : BitVec 15
  deriving DecidableEq, Repr

/-- The operation map, in priority order (R65). -/
def selectorRows : List SelRow :=
  [ ⟨.start,       0x7FFF, 0x0076⟩,
    ⟨.discard,     0x7F00, 0x0000⟩,
    ⟨.reservedW,   0x4000, 0x0000⟩,
    ⟨.reservedA0,  0x7F00, 0x4000⟩,
    ⟨.reservedAhi, 0x7000, 0x7000⟩,
    ⟨.cmdCheck,    0x7F00, 0x5700⟩,
    ⟨.frameCheck,  0x7F00, 0x6F00⟩,
    ⟨.append,      0x4000, 0x4000⟩ ]

/-- `(SEL & mask) = match` (R65). -/
def SelRow.hits (r : SelRow) (w : BitVec 15) : Bool := (w &&& r.mask) == r.pattern

/-- "the first row whose `(SEL & mask) = match` selects the case" (R65). -/
def selectRow (w : BitVec 15) : Option SelOp :=
  (selectorRows.find? fun r => r.hits w).map SelRow.op

/-- The operation of a row with its operands, BUF_LEN and b, taken from the word (R64, R66). -/
def SelOp.instr (op : SelOp) (len : BitVec 6) (b : Byte) : Instr :=
  match op with
  | .start => .syncStart
  | .discard => .syncDiscard b
  | .reservedW => .syncReservedW len b
  | .reservedA0 => .syncReservedA0 b
  | .reservedAhi => .syncReservedAhi len b
  | .cmdCheck => .syncCmdCheck b
  | .frameCheck => .syncFrameCheck b
  | .append => .syncAppend len b

/-- The byte-step operation a selector word selects (R65, R81). -/
def decodeSelector (w : BitVec 15) : Except DecodeError Instr :=
  match selectRow w with
  | some op => .ok (op.instr (selLen w) (selByte w))
  | none => .error .noSelectorRow

/-- The decoder operation a length selects (R71). -/
def decodeLength (n : Nat) : Instr :=
  if n = Config.frameLen then .decode else .decodeLenErr n

/-- The operation the strobes `HC = {rst, feed}` invoke, RESET first (R72, R131). -/
def decodeStrobe (hc : BitVec 2) : Except DecodeError Instr :=
  if hc &&& 0b10 = 0b10 then .ok (.reset (hc.getLsbD 0))
  else if hc &&& 0b11 = 0b01 then .ok .feed
  else .error .noStrobe

/-- The operation that the word `w` on `ch` names, or why it names none. Total on every number. -/
def decodeWord (ch : Channel) (w : Nat) : Except DecodeError Instr :=
  match ch with
  | .selector => if w < 2 ^ 15 then decodeSelector (BitVec.ofNat 15 w) else .error .selectorTooWide
  | .decLen => if w < 2 ^ 6 then .ok (decodeLength w) else .error .lengthTooWide
  | .strobe => if w < 2 ^ 2 then decodeStrobe (BitVec.ofNat 2 w) else .error .strobeTooWide
  | .recPorts => if w = 0 then .ok .readLatest else .error .sampleHasNoWord
  | .statusPort => if w = 0 then .ok .readStatus else .error .sampleHasNoWord

/-- The encoder: where an operation's word arrives and what it is (R64, R65, R71, R72). A sample has no word: 0 stands for
it. -/
def encode : Instr → Channel × Nat
  | .syncStart => (.selector, (selectorWord 0 0 Config.startMarker).toNat)
  | .syncDiscard b => (.selector, (selectorWord 0 0 b).toNat)
  | .syncReservedW len b => (.selector, (selectorWord 0 len b).toNat)
  | .syncReservedA0 b => (.selector, (selectorWord 1 0 b).toNat)
  | .syncReservedAhi len b => (.selector, (selectorWord 1 len b).toNat)
  | .syncCmdCheck b => (.selector, (selectorWord 1 23 b).toNat)
  | .syncFrameCheck b => (.selector, (selectorWord 1 47 b).toNat)
  | .syncAppend len b => (.selector, (selectorWord 1 len b).toNat)
  | .decode => (.decLen, Config.frameLen)
  | .decodeLenErr n => (.decLen, n)
  | .reset feed => (.strobe, if feed then 3 else 2)
  | .feed => (.strobe, 1)
  | .readLatest => (.recPorts, 0)
  | .readStatus => (.statusPort, 0)

/-- How many bits the word of a channel has (R64, R71, R72). -/
def Channel.width : Channel → Nat
  | .selector => 15
  | .decLen => 6
  | .strobe => 2
  | .recPorts => 0
  | .statusPort => 0

/-- Which channel a word of the opcode table belongs to, told by its width in whole bytes. The strobe words 1, 2 and 3
share their byte with length words, and are read as strobes. DESIGN CHOICE, log 15. -/
def tableChannel (nbits w : Nat) : Option Channel :=
  if nbits ≤ 8 then some (if w = 1 ∨ w = 2 ∨ w = 3 then .strobe else .decLen)
  else if nbits ≤ 16 then some .selector
  else none

/-- The operation the decoder reads from a word of the opcode table of `nbits` bits (log 15). -/
def decodeTableWord (nbits w : Nat) : Option Instr :=
  match tableChannel nbits w with
  | some ch => (decodeWord ch w).toOption
  | none => none

end Sys2Proof
end

