-- ==== Sys2Proof/Machine/State.lean ====
section
/-! DEFINITION. The state of the block (R20, R26, R131), of its environment as far as a step reads it (R29, R137, R141), the
model's own record of what a run observes (R143), the faults and refusals, and the state after reset (R32). -/

namespace Sys2Proof.Machine

/-- SYNC_STATE (R20): WaitingForStart or Accumulating. -/
inductive SyncState where
  /-- WaitingForStart, coded 0. -/
  | wait
  /-- Accumulating, coded 1. -/
  | acc
  deriving DecidableEq, Repr

/-- The TelemetryRecord held in LATEST (R26): raw unsigned fields (R104, R105) and the two domain bits. -/
structure Record where
  curTemp : Byte
  desTemp : Byte
  runState : Byte
  onOff : Bool
  supplyV : Half
  fanSpeed : Half
  fanV : Half
  hxTemp : Half
  glowV : Half
  glowI : Half
  pumpF : Byte
  errCode : Byte
  runStateKnown : Bool
  errCodeKnown : Bool
  deriving DecidableEq, Repr

/-- The name of one field of LATEST, for a host that reads the rec_* ports one at a time (R130, R177). -/
inductive RecField where
  | curTemp | desTemp | runState | onOff | supplyV | fanSpeed | fanV | hxTemp | glowV | glowI | pumpF | errCode
  | runStateKnown | errCodeKnown
  deriving DecidableEq, Repr

/-- The events (R150), each with its payload. -/
inductive Event where
  /-- RECORD: a 48-byte frame passed every check. -/
  | record (r : Record)
  /-- FERR_CMD: the command end marker is bad. -/
  | ferrCmd
  /-- FERR_RESP with its cause mask (R152). -/
  | ferrResp (m : BitVec 2)
  /-- LEN_ERR with the length (R153). -/
  | lenErr (n : Nat)
  deriving DecidableEq, Repr

/-- One entry of what a run observes (R143): an event of a step, the result of a READ or STATUS statement, the value of one
rec_* port (R177), or a record from the decoder sub-block (R137). -/
inductive Obs where
  | event (e : Event)
  | latest (r : Option Record)
  | status (w : BitVec 8)
  | recField (f : RecField) (v : Half)
  | decoded (r : Record)
  deriving DecidableEq, Repr

/-- What the environment does next: the host's and feeder's actions at the places they land (R141, R142). A list of them is
finite, log 26. -/
inductive Input where
  /-- A rising clock edge with these strobes `HC = {rst, feed}` (R72, R131, R133). -/
  | edge (hc : BitVec 2)
  /-- A single-threaded host that has invoked FEED waits for it to return: edges with no strobe while the pass is open. -/
  | await
  /-- DRAIN's repetition: FEED again, and wait, while STREAM is not empty (R74). -/
  | drain
  /-- PUSH: the feeder appends bytes at STREAM's tail (R29, R73), where an open pass finds them: run (b) of V-S11. -/
  | push (bs : List Byte)
  /-- PUSH of bytes that an open pass does not take: they wait for the next one (R90, U9), run (a) of V-S11. Log 9. -/
  | pushLate (bs : List Byte)
  /-- READ: sample REC_VALID and LATEST (R138). -/
  | readLatest
  /-- STATUS: sample the status word (R139). -/
  | readStatus
  /-- Sample one rec_* port alone (R135, R177). -/
  | readField (f : RecField)
  /-- Drive the decoder sub-block's frame input (R137). -/
  | driveFrame (bus : BitVec 384)
  /-- Present a length word at the sub-block's 6-bit length input and take its outputs (R71, R137). -/
  | decLen (w : Nat)
  /-- Call Decode at the transaction level, where any length may be given (R101, U11). -/
  | decCall (n : Nat)
  deriving DecidableEq, Repr

/-- FRAME_BUF as data: the cells that hold a value, in rising order of their address (R28, R40). An address that is not
listed holds no value (R32, U1). Log 3. -/
abbrev Memory := List Host.Cell

/-- Everything a step reads or writes. -/
structure State where
  /-- SYNC_STATE (R20). -/
  syncState : SyncState
  /-- BUF_LEN (R20, R22). -/
  bufLen : BitVec 6
  /-- FRAME_BUF (R20, R28, R40). -/
  frameBuf : Memory
  /-- LATEST (R20, R26). Its fields have a meaning only while REC_VALID is 1 (R27, R174). -/
  latest : Record
  /-- REC_VALID (R27). -/
  recValid : Bool
  /-- PASS_OPEN (R30). -/
  passOpen : Bool
  /-- The event output register evt_valid (R131, R134). -/
  evtValid : Bool
  /-- The event output register evt_code (R131, R134). -/
  evtCode : BitVec 4
  /-- STREAM, oldest byte first: the feeder's state (R29). -/
  stream : List Byte
  /-- The model's own: how many bytes at STREAM's tail arrived during the open pass and are left to the next one (R90, D17,
  U9). Log 9. -/
  heldBack : Nat
  /-- dec_frame, the value the host drives on the sub-block's frame input (R137). -/
  decFrame : BitVec 384
  /-- The model's own: the environment's coming actions, oldest first (R141). Log 1. -/
  inputs : List Input
  /-- The model's own: what the run has observed so far, oldest first (R143). Log 6. -/
  trace : List Obs
  /-- The model's own: how many free values RESET has drawn (`Config.freeWord`). Log 4. -/
  freeDraws : Nat
  deriving DecidableEq, Repr

/-- Why a step stops with a fault. -/
inductive Fault where
  /-- INVARIANT_BROKEN(SYNC_STATE, BUF_LEN) of R87: raised by SYNC_RESERVED_W, SYNC_RESERVED_A0 and SYNC_RESERVED_AHI, in
  states that no run from reset reaches (R67). Safe: the spec asks for it (D21). -/
  | invariantBroken (sync : SyncState) (len : BitVec 6)
  /-- A use of a field of LATEST while REC_VALID is 0 (R138, R174, U2): raised by sampling one rec_* port. Safe: the spec
  asks for it. -/
  | recordNotValid (f : RecField)
  /-- A read of a FRAME_BUF cell that holds no value (R32, U1): raised by SYNC_CMD_CHECK and SYNC_FRAME_CHECK, in states that
  no run from reset reaches (R56). Safe: the hardware would read some byte. -/
  | cellNotWritten (i : Nat)
  /-- An access to FRAME_BUF at an index outside 0..47, which does not exist (R40): raised by the accessors of FRAME_BUF.
  No operation reaches it (R41, R42). Safe. -/
  | cellOutOfRange (i : Nat)
  deriving DecidableEq, Repr

/-- Why a step gives no meaning. -/
inductive Refusal where
  /-- An operation with no meaning yet: raised by `exec`'s arm for it. Safe. No arm raises it. -/
  | notModelled (mnemonic : String)
  /-- A byte-step operation asked of a state whose selector word does not select it (R81): raised by the meanings of the
  byte-step operations. No step of the machine raises it, because a step runs the operation the selector word selects.
  Safe. Log 7. -/
  | notSelected
  /-- A word that names no operation: raised by the machine for a length above 63 at the 6-bit length input (U11). Safe.
  Log 14. -/
  | undecodable (e : DecodeError)
  deriving DecidableEq, Repr

/-- LATEST with every field 0: what the model names for LATEST at reset, where the spec gives no value (R32). DESIGN
CHOICE, unsafe. Log 2. -/
def Record.zero : Record where
  curTemp := 0
  desTemp := 0
  runState := 0
  onOff := false
  supplyV := 0
  fanSpeed := 0
  fanV := 0
  hxTemp := 0
  glowV := 0
  glowI := 0
  pumpF := 0
  errCode := 0
  runStateKnown := false
  errCodeKnown := false

/-- The machine right after reset, and at power-on (R32, R134, R170). STREAM is empty, and the environment's further fields
are at the values of log 5. -/
def State.reset : State where
  syncState := .wait
  bufLen := 0
  frameBuf := []
  latest := Record.zero
  recValid := false
  passOpen := false
  evtValid := false
  evtCode := 0
  stream := []
  heldBack := 0
  decFrame := 0
  inputs := []
  trace := []
  freeDraws := 0

end Sys2Proof.Machine
end

