-- ==== Sys2Proof/Machine/Flags.lean ====
section
/-! DEFINITION. Every single-bit result and status word of the block: SYNC_STATE as a bit, the on/off flag (R109), the two
domain bits (R15, R118, R119), the cause mask of FERR_RESP (R152), the event codes (R70) and STATUS (R31). -/

namespace Sys2Proof.Machine

/-- SYNC_STATE as the bit of the selector word and of STATUS: 0 is WAIT, 1 is ACC (R20, R31, R64). -/
def SyncState.bit : SyncState → BitVec 1
  | .wait => 0
  | .acc => 1

/-- The state a SYNC_STATE bit stands for (R20). -/
def SyncState.ofBit (b : BitVec 1) : SyncState := if b = 1 then .acc else .wait

/-- on/off flag: only the byte 0x01 gives 1 (R109). -/
def onOffFlag (b : Byte) : Bool := b == 0x01

/-- `RunStateKnown(c) = (c <= RUN_STATE_MAX)` (R15, R118). -/
def isRunStateKnown (c : Byte) : Bool := c ≤ Config.runStateMax

/-- `ErrorCodeKnown(c) = (c <= ERROR_CODE_MAX)` (R15, R119). -/
def isErrorCodeKnown (c : Byte) : Bool := c ≤ Config.errorCodeMax

/-- Does the command end marker fail the frame? Only the value CMD_END_BAD does (R85). -/
def cmdMarkerBad (b21 : Byte) : Bool := b21 == Config.cmdEndBad

/-- The 2-bit cause mask of the frame check: bit 1 "start marker not found at the response boundary", bit 0 "invalid
response end marker" (R86, R152, R156). -/
def causeMask (b24 b45 : Byte) : BitVec 2 :=
  BitVec.ofBool (b24 != Config.startMarker) ++ BitVec.ofBool (b45 != Config.respEndOk)

/-- EVT[3:0] of an event (R70); FERR_RESP is 0x4 with the cause mask in bits 1 and 0. -/
def Event.code : Event → BitVec 4
  | .record _ => 0x1
  | .ferrCmd => 0x2
  | .ferrResp m => (0b01 : BitVec 2) ++ m
  | .lenErr _ => 0x8

/-- What an event code tells a consumer (R70), without the payload that stays at the transaction level. -/
inductive EventKind where
  | none | record | ferrCmd | ferrResp (m : BitVec 2) | lenErr
  deriving DecidableEq, Repr

/-- A consumer's reading of EVT[3:0]. The reserved codes 0x3, 0x4 and 0x9..0xF have no reading (R70, U5). -/
def EventKind.ofCode (c : BitVec 4) : Option EventKind :=
  if c = 0x0 then some .none
  else if c = 0x1 then some .record
  else if c = 0x2 then some .ferrCmd
  else if c = 0x8 then some .lenErr
  else if c.extractLsb' 2 2 = 0b01 ∧ c.extractLsb' 0 2 ≠ 0 then some (.ferrResp (c.extractLsb' 0 2))
  else Option.none

/-- The kind of an event. -/
def Event.kind : Event → EventKind
  | .record _ => .record
  | .ferrCmd => .ferrCmd
  | .ferrResp m => .ferrResp m
  | .lenErr _ => .lenErr

/-- Is the event a framing error (R150)? -/
def Event.isFramingError : Event → Bool
  | .record _ => false
  | .ferrCmd => true
  | .ferrResp _ => true
  | .lenErr _ => false

/-- STATUS, `{S.REC_VALID, S.SYNC_STATE, S.BUF_LEN[5:0]}` (R31, R139). -/
def State.status (s : State) : BitVec 8 := BitVec.ofBool s.recValid ++ s.syncState.bit ++ s.bufLen

/-- LEN of a status word (R31). -/
def statusLen (w : BitVec 8) : BitVec 6 := w.extractLsb' 0 6
/-- ACC of a status word (R31). -/
def statusAcc (w : BitVec 8) : Bool := w.getLsbD 6
/-- RV of a status word (R31). -/
def statusRv (w : BitVec 8) : Bool := w.getLsbD 7

end Sys2Proof.Machine
end

