-- ==== Sys2Proof/Machine/Operands.lean ====
section
/-! DEFINITION. Operand assembly and numerics: the frame and its bytes (R13, R60), its bus form (R137), big-endian 16-bit
assembly (R102), zero extension (R104), the fixed-point scaler (R105) and the validity of a frame (R62). -/

namespace Sys2Proof.Machine

/-- RawFrame: a sequence of exactly 48 bytes (R60). -/
abbrev Frame := Bytes Config.frameLen

/-- `F[i]`, the byte at absolute offset `i` (R13). -/
def Frame.at (F : Frame) (i : Fin 48) : Byte := F.1[i.1]'(by have := F.2; simp only [Config.frameLen] at this; omega)

/-- Absolute offset of the response-relative offset `r`: `24 + r` (R13, C2). -/
def respOff (r : Fin 24) : Fin 48 := ⟨24 + r.1, by omega⟩

/-- Absolute offset of the command-relative offset `c`: `c` (R13). -/
def cmdOff (c : Fin 24) : Fin 48 := ⟨c.1, by omega⟩

/-- `{hi, lo}` as a 16-bit value, `(hi << 8) | lo` (R44, R102). -/
def be16 (hi lo : Byte) : Half := (hi.zeroExtend 16 <<< 8) ||| lo.zeroExtend 16

/-- The big-endian field of `F` whose high byte is at response-relative offset `r` and low byte at `r + 1` (R102). -/
def Frame.resp16 (F : Frame) (r : Fin 23) : Half :=
  be16 (F.at (respOff ⟨r.1, by omega⟩)) (F.at (respOff ⟨r.1 + 1, by omega⟩))

/-- `zext(F[i])`: an 8-bit field is unsigned (R104). -/
def zext16 (b : Byte) : Half := b.zeroExtend 16

/-- The bytes of dec_frame: byte `i` is `dec_frame[8i+7:8i]` (R137). -/
def Frame.ofBus (bus : BitVec 384) : Frame :=
  ⟨(List.range 48).map fun i => bus.extractLsb' (8 * i) 8, by simp [Config.frameLen]⟩

/-- A list of bytes as a bus value, the first byte at the least significant end (R137). -/
def busOfBytes : List Byte → BitVec 384
  | [] => 0
  | b :: bs => (busOfBytes bs <<< 8) ||| b.zeroExtend 384

/-- A frame as it is driven on dec_frame (R137). -/
def Frame.toBus (F : Frame) : BitVec 384 := busOfBytes F.1

/-- `ValidFrame(F)` (R61, R62). -/
def Frame.valid (F : Frame) : Bool :=
  F.at 0 == Config.startMarker && F.at 21 != Config.cmdEndBad && F.at 24 == Config.startMarker
    && F.at 45 == Config.respEndOk

/-- `Scale(raw, k) = raw / 10^k`, an exact rational (R14, R105). -/
def scale (raw k : Nat) : Rat := (raw : Rat) / (10 ^ k : Nat)

/-- Exactly `k` decimal digits of `v mod 10^k`, zero-padded, most significant first (R105). -/
def fracDigits : Nat → Nat → List Char
  | 0, _ => []
  | k + 1, v => fracDigits k (v / 10) ++ [Nat.digitChar (v % 10)]

/-- The characters of `Dec(raw, k)`: "the integer part `raw div 10^k`, a point, then `raw mod 10^k` written with exactly k
digits, zero-padded" (R105). -/
def decChars (raw k : Nat) : List Char :=
  Nat.toDigits 10 (raw / 10 ^ k) ++ '.' :: fracDigits k (raw % 10 ^ k)

/-- `Dec(raw, k)` (R105). -/
def dec (raw k : Nat) : String := String.ofList (decChars raw k)

/-- The scale constant k of each scaled field: 1 for "raw × 0.1", 2 for "raw × 0.01"; `none` for an unscaled field
(R105, R106 to R117). -/
def RecField.scaleExp : RecField → Option Nat
  | .curTemp => none
  | .desTemp => none
  | .runState => none
  | .onOff => none
  | .supplyV => some 1
  | .fanSpeed => none
  | .fanV => some 1
  | .hxTemp => none
  | .glowV => some 1
  | .glowI => some 2
  | .pumpF => some 1
  | .errCode => none
  | .runStateKnown => none
  | .errCodeKnown => none

/-- The raw value of one field, zero-extended to 16 bits (R26, R104). -/
def Record.field (r : Record) : RecField → Half
  | .curTemp => zext16 r.curTemp
  | .desTemp => zext16 r.desTemp
  | .runState => zext16 r.runState
  | .onOff => (BitVec.ofBool r.onOff).zeroExtend 16
  | .supplyV => r.supplyV
  | .fanSpeed => r.fanSpeed
  | .fanV => r.fanV
  | .hxTemp => r.hxTemp
  | .glowV => r.glowV
  | .glowI => r.glowI
  | .pumpF => zext16 r.pumpF
  | .errCode => zext16 r.errCode
  | .runStateKnown => (BitVec.ofBool r.runStateKnown).zeroExtend 16
  | .errCodeKnown => (BitVec.ofBool r.errCodeKnown).zeroExtend 16

/-- The width of each field in bits (R26). -/
def RecField.width : RecField → Nat
  | .curTemp => 8
  | .desTemp => 8
  | .runState => 8
  | .onOff => 1
  | .supplyV => 16
  | .fanSpeed => 16
  | .fanV => 16
  | .hxTemp => 16
  | .glowV => 16
  | .glowI => 16
  | .pumpF => 8
  | .errCode => 8
  | .runStateKnown => 1
  | .errCodeKnown => 1

/-- The exact value of a field: `Scale(raw, k)` for a scaled one, the raw integer for any other (R105, R110 to R116). -/
def Record.value (r : Record) (f : RecField) : Rat := scale (r.field f).toNat (f.scaleExp.getD 0)

end Sys2Proof.Machine
end

