-- ==== Sys2Proof/Machine/Ops.lean ====
section
/-! DEFINITION. The named operations over FRAME_BUF (R41, R42), the registers, STREAM and the event outputs that the meanings
are made of; among them the entry of a framing error (R157), from which nothing needs to return (R158). -/

namespace Sys2Proof.Machine

/-- What one step can answer. -/
abbrev Out := Host.Outcome State Fault Refusal

/-- The byte at address `a`, if a value is held there. -/
def Memory.read : Memory → Nat → Option Byte
  | [], _ => none
  | c :: m, a => if c.1 = a then some c.2 else Memory.read m a

/-- Store `v` at address `a`, keeping the addresses in rising order. -/
def Memory.write : Memory → Nat → Byte → Memory
  | [], a, v => [(a, v)]
  | c :: m, a, v =>
    if a < c.1 then (a, v) :: c :: m
    else if a = c.1 then (a, v) :: m
    else c :: Memory.write m a v

/-- Every address of `m` is above `a`, they rise strictly, and all are below 48 (R40). -/
def Memory.risesFrom : Nat → Memory → Bool
  | _, [] => true
  | a, c :: m => a ≤ c.1 && c.1 < Config.frameLen && Memory.risesFrom (c.1 + 1) m

/-- The canonical form: strictly rising addresses, each one of FRAME_BUF's 48. No entry can equal what an unlisted address
reads as, because that is no value. -/
def Memory.wf (m : Memory) : Bool := Memory.risesFrom 0 m

/-- The read accessor of FRAME_BUF: `FB[i]` (R13, R42). -/
def State.readCell (s : State) (i : Nat) : Except Fault Byte :=
  if i < Config.frameLen then
    match Memory.read s.frameBuf i with
    | some b => .ok b
    | none => .error (.cellNotWritten i)
  else .error (.cellOutOfRange i)

/-- The write accessor of FRAME_BUF: `FB[i] <- b`, bounds-checked (R13, R41). -/
def State.writeCell (s : State) (i : Nat) (b : Byte) : Except Fault State :=
  if i < Config.frameLen then .ok { s with frameBuf := Memory.write s.frameBuf i b }
  else .error (.cellOutOfRange i)

/-- `S.FRAME_BUF[0..n-1]`, in offset order (R86). -/
def State.readCells (s : State) : (n : Nat) → Except Fault (Bytes n)
  | 0 => .ok ⟨[], rfl⟩
  | n + 1 =>
    match s.readCells n with
    | .error f => .error f
    | .ok p =>
      match s.readCell n with
      | .error f => .error f
      | .ok b => .ok ⟨p.1 ++ [b], by simp [p.2]⟩

/-- `F = S.FRAME_BUF[0..46] ++ [b]`, the 48-byte frame of the frame check (R86). -/
def State.assembleFrame (s : State) (b : Byte) : Except Fault Frame :=
  match s.readCells 47 with
  | .error f => .error f
  | .ok p => .ok ⟨p.1 ++ [b], by simp [p.2, Config.frameLen]⟩

/-- The step's answer when an accessor may fault. -/
def answer : Except Fault State → Out
  | .ok s => .next s
  | .error f => .fault f

/-- Consume the byte at the head of STREAM (R29, R47). -/
def State.consume (s : State) : State := { s with stream := s.stream.tail }

/-- `S.BUF_LEN <- n`. -/
def State.setLen (s : State) (n : BitVec 6) : State := { s with bufLen := n }

/-- `S.SYNC_STATE <- x`. -/
def State.setSync (s : State) (x : SyncState) : State := { s with syncState := x }

/-- `S.PASS_OPEN <- v`. A pass that begins finds every byte of STREAM available, and once it is over no byte is held back
(R90). Log 9. -/
def State.setPass (s : State) (v : Bool) : State := { s with passOpen := v, heldBack := 0 }

/-- in_valid: STREAM has a byte for the block (R29, R130, R133); a byte held back for the next pass is none. Log 27. -/
def State.inValid (s : State) : Bool := decide (s.heldBack < s.stream.length)

/-- in_data: the byte at STREAM's head, while in_valid is 1 (R130). -/
def State.inData (s : State) : Option Byte := if s.inValid then s.stream.head? else none

/-- PUSH: the feeder appends bytes at STREAM's tail (R29). During a pass R90 leaves open whether that pass takes them; with
`late` it does not, and then bytes behind them wait as well, because STREAM keeps its order. Log 9. -/
def State.push (s : State) (bs : List Byte) (late : Bool) : State :=
  { s with
    stream := s.stream ++ bs
    heldBack := if s.passOpen && (late || s.heldBack != 0) then s.heldBack + bs.length else s.heldBack }

/-- Discard the buffer and wait for a start marker: `S.BUF_LEN <- 0`, `S.SYNC_STATE <- WAIT`. No cell is cleared (R28). -/
def State.toWait (s : State) : State := (s.setLen 0).setSync .wait

/-- Add an entry to what the run observes (R143). -/
def State.observe (s : State) (o : Obs) : State := { s with trace := s.trace ++ [o] }

/-- The event output of an edge with no event: `evt_valid' = 0`, `evt_code' = 0x0` (R134). -/
def State.quiet (s : State) : State := { s with evtValid := false, evtCode := 0 }

/-- The event output of an edge whose step produces `e` (R134): `evt_valid' = 1`, `evt_code' = code(e)`. At the transaction
level the event joins the run's list (R34, R143). -/
def State.emit (s : State) (e : Event) : State :=
  { s.observe (.event e) with evtValid := true, evtCode := e.code }

/-- ERROR ENTRY (R157), shared by every framing error: the buffer is discarded, SYNC_STATE is WAIT, the event is reported,
and nothing else changes. There is no handler and nothing to return from (R158). -/
def State.framingError (s : State) (e : Event) : State := s.toWait.emit e

/-- The emission of a record (R48, R86): LATEST and REC_VALID change together, with the RECORD event. -/
def State.emitRecord (s : State) (r : Record) : State :=
  { s.toWait with latest := r, recValid := true }.emit (.record r)

/-- LATEST after RESET: no value (R32, R140), so a free value in every field. Log 4. -/
def freeRecord (draw : Nat) : Record where
  curTemp := (Config.freeWord draw 0).setWidth 8
  desTemp := (Config.freeWord draw 1).setWidth 8
  runState := (Config.freeWord draw 2).setWidth 8
  onOff := (Config.freeWord draw 3).getLsbD 0
  supplyV := Config.freeWord draw 4
  fanSpeed := Config.freeWord draw 5
  fanV := Config.freeWord draw 6
  hxTemp := Config.freeWord draw 7
  glowV := Config.freeWord draw 8
  glowI := Config.freeWord draw 9
  pumpF := (Config.freeWord draw 10).setWidth 8
  errCode := (Config.freeWord draw 11).setWidth 8
  runStateKnown := (Config.freeWord draw 12).getLsbD 0
  errCodeKnown := (Config.freeWord draw 13).getLsbD 0

/-- FRAME_BUF and LATEST lose their values (R32, R140): no cell holds one, and LATEST is a free value that nothing may read
while REC_VALID is 0. -/
def State.forget (s : State) : State :=
  { s with frameBuf := [], latest := freeRecord s.freeDraws, freeDraws := s.freeDraws + 1 }

/-- `ReadLatest(S)` (R138). -/
def State.readLatest (s : State) : Option Record := if s.recValid then some s.latest else none

/-- The value of one rec_* port. A use of it while REC_VALID is 0 faults (R135, R138, R174, U2). -/
def State.readField (s : State) (f : RecField) : Except Fault Half :=
  if s.recValid then .ok (s.latest.field f) else .error (.recordNotValid f)

/-- The selector word of a byte (R64). -/
def State.selector (s : State) (b : Byte) : BitVec 15 := selectorWord s.syncState.bit s.bufLen b

/-- FETCH: the byte-step operation that the selector word of the state and the byte at the head of STREAM selects (R81), or
`none` when STREAM is empty. -/
def State.byteOp (s : State) : Option Instr :=
  match s.stream with
  | [] => none
  | b :: _ => (decodeSelector (s.selector b)).toOption

/-- A byte-step operation runs in a state whose selector word selects it (R81), and has no meaning in another. Log 7. -/
def State.whenSelected (s : State) (i : Instr) (out : Out) : Out :=
  if s.byteOp = some i then out else .refused .notSelected

end Sys2Proof.Machine
end

