-- ==== Sys2Proof/Machine/Decoder.lean ====
section
/-! DEFINITION. The field decoder: Decode and its length check (R100, R101), the descriptions of the two codes (R120), and the
two operations of the decoder sub-block (R137). -/

namespace Sys2Proof.Machine

/-- The record of a 48-byte frame, one rule for each field (R100, R106 to R119). Response offsets are relative to absolute
offset 24 (C2). No marker is looked at (R122) and no value is judged (R121). -/
def decodeRecord (F : Frame) : Record where
  curTemp := F.at (cmdOff 3)
  desTemp := F.at (cmdOff 4)
  runState := F.at (respOff 2)
  onOff := onOffFlag (F.at (respOff 3))
  supplyV := F.resp16 4
  fanSpeed := F.resp16 6
  fanV := F.resp16 8
  hxTemp := F.resp16 10
  glowV := F.resp16 12
  glowI := F.resp16 14
  pumpF := F.at (respOff 16)
  errCode := F.at (respOff 17)
  runStateKnown := isRunStateKnown (F.at (respOff 2))
  errCodeKnown := isErrorCodeKnown (F.at (respOff 17))

/-- What Decode returns (R100, R101). -/
inductive DecodeResult where
  | record (r : Record)
  | lenError (n : Nat)
  deriving DecidableEq, Repr

/-- `Decode(F, n)`: a length other than 48 gives `LenError(n)` and no record (R100, R101). -/
def decodeFrame (F : Frame) (n : Nat) : DecodeResult :=
  if n = Config.frameLen then .record (decodeRecord F) else .lenError n

/-- `Decode(F, |F|)` of a byte sequence of any length (R101). -/
def decodeBytes (xs : List Byte) : DecodeResult :=
  if h : xs.length = Config.frameLen then .record (decodeRecord ⟨xs, h⟩) else .lenError xs.length

/-- `RunStateDesc(r)` (R120). -/
def Record.runStateDesc (r : Record) : String :=
  if h : r.runStateKnown = true ∧ r.runState.toNat < 9 then Config.runStateText ⟨r.runState.toNat, h.2⟩
  else Config.unknownRunState

/-- `ErrorCodeDesc(r)` (R120). -/
def Record.errorCodeDesc (r : Record) : String :=
  if h : r.errCodeKnown = true ∧ r.errCode.toNat < 11 then Config.errorCodeText ⟨r.errCode.toNat, h.2⟩
  else Config.unknownErrorCode

/-- DECODE (R100): the sub-block's record of the frame on dec_frame. No state of the block changes (R47, R137). -/
def execDecode (s : State) : Out :=
  .next (s.observe (.decoded (decodeRecord (Frame.ofBus s.decFrame))))

/-- DECODE_LEN_ERR (R101): no record; LEN_ERR with the length is reported (R153). The sub-block has no event register, so
evt_valid and evt_code stay (log 17). -/
def execDecodeLenErr (n : Nat) (s : State) : Out :=
  .next (s.observe (.event (.lenErr n)))

end Sys2Proof.Machine
end

