-- ==== Sys2Proof/Machine/HostOps.lean ====
section
/-! DEFINITION. The host operations: RESET (R140), FEED (R90, R133), READ_LATEST (R138) and READ_STATUS (R139). -/

namespace Sys2Proof.Machine

/-- RESET (R140): WAIT, BUF_LEN 0, REC_VALID 0, PASS_OPEN 0; FRAME_BUF and LATEST have no value; STREAM stays; no event.
The feed strobe at the same edge is ignored (R131, D22). -/
def execReset (_feed : Bool) (s : State) : Out :=
  .next (({ s.toWait with recValid := false }.setPass false).forget).quiet

/-- FEED (R90): `S.PASS_OPEN <- 1`, a pass begins (R133). The pass is the loop of R90, one byte step for each following step
of the machine, until it clears PASS_OPEN: the host may act between any two of them (R141). FEED while a pass is open has
no effect (R133). Log 1. -/
def execFeed (s : State) : Out :=
  .next (s.setPass true).quiet

/-- READ_LATEST (R138): none, or a whole record; no state of the block changes. -/
def execReadLatest (s : State) : Out :=
  .next (s.observe (.latest s.readLatest))

/-- READ_STATUS (R139): the status word; no state of the block changes. -/
def execReadStatus (s : State) : Out :=
  .next (s.observe (.status s.status))

end Sys2Proof.Machine
end

