-- ==== Sys2Proof/Machine/Synchronizer.lean ====
section
/-! DEFINITION. The byte-step operations of the frame synchronizer (R80 to R88). Each consumes the byte at the head of STREAM
(R80), but for the reserved cases, which fault (R87). -/

namespace Sys2Proof.Machine

/-- SYNC_START (R82): the start marker becomes `FB[0]`, BUF_LEN is 1, SYNC_STATE is ACC. -/
def execSyncStart (s : State) : Out :=
  s.whenSelected .syncStart (answer do
    let t ← s.consume.writeCell 0 Config.startMarker
    return ((t.setLen 1).setSync .acc).quiet)

/-- SYNC_DISCARD (R83): the byte is consumed and nothing else changes; no event (D7). -/
def execSyncDiscard (b : Byte) (s : State) : Out :=
  s.whenSelected (.syncDiscard b) (.next s.consume.quiet)

/-- SYNC_APPEND (R84): `n = S.BUF_LEN`, `FB[n] <- b`, `BUF_LEN <- n + 1`. A start marker is data here (R88). -/
def execSyncAppend (len : BitVec 6) (b : Byte) (s : State) : Out :=
  s.whenSelected (.syncAppend len b) (answer do
    let t ← s.consume.writeCell s.bufLen.toNat b
    return (t.setLen (s.bufLen + 1)).quiet)

/-- SYNC_CMD_CHECK (R85): `FB[23] <- b`; when `FB[21]` is the invalid-marker value the frame is dropped with FERR_CMD and the
pass ends after this byte, else BUF_LEN is 24. -/
def execSyncCmdCheck (b : Byte) (s : State) : Out :=
  s.whenSelected (.syncCmdCheck b) (answer do
    let b21 ← s.readCell Config.cmdEndOff
    let t ← s.consume.writeCell 23 b
    return if cmdMarkerBad b21 then (t.framingError .ferrCmd).setPass false else (t.setLen 24).quiet)

/-- SYNC_FRAME_CHECK (R86): the 48-byte frame F is `FB[0..46] ++ [b]`; with both response markers right its record goes to
LATEST with RECORD, else FERR_RESP reports the cause mask. Either way the state is WAIT and the pass goes on (D5). -/
def execSyncFrameCheck (b : Byte) (s : State) : Out :=
  s.whenSelected (.syncFrameCheck b) (answer do
    let F ← s.assembleFrame b
    let t ← s.consume.writeCell 47 b
    let m := causeMask (F.at 24) (F.at 45)
    return if m = 0 then t.emitRecord (decodeRecord F) else t.framingError (.ferrResp m))

/-- SYNC_RESERVED_W (R87): WAIT with BUF_LEN not 0 faults; the byte is not consumed. -/
def execSyncReservedW (_len : BitVec 6) (_b : Byte) (s : State) : Out :=
  .fault (.invariantBroken s.syncState s.bufLen)

/-- SYNC_RESERVED_A0 (R87): ACC with BUF_LEN 0 faults; the byte is not consumed. -/
def execSyncReservedA0 (_b : Byte) (s : State) : Out :=
  .fault (.invariantBroken s.syncState s.bufLen)

/-- SYNC_RESERVED_AHI (R87): ACC with BUF_LEN 48 to 63 faults; the byte is not consumed. -/
def execSyncReservedAhi (_len : BitVec 6) (_b : Byte) (s : State) : Out :=
  .fault (.invariantBroken s.syncState s.bufLen)

end Sys2Proof.Machine
end

