-- ==== Sys2Proof/Machine/Dispatch.lean ====
section
/-! DEFINITION. The dispatch of every operation to its meaning. -/

namespace Sys2Proof.Machine

def exec (i : Instr) (s : State) : Host.Outcome State Fault Refusal :=
  match i with
  -- the frame synchronizer (R82 to R87)
  | .syncStart => Sys2Proof.Machine.execSyncStart s
  | .syncDiscard b => Sys2Proof.Machine.execSyncDiscard b s
  | .syncReservedW len b => Sys2Proof.Machine.execSyncReservedW len b s
  | .syncReservedA0 b => Sys2Proof.Machine.execSyncReservedA0 b s
  | .syncReservedAhi len b => Sys2Proof.Machine.execSyncReservedAhi len b s
  | .syncCmdCheck b => Sys2Proof.Machine.execSyncCmdCheck b s
  | .syncFrameCheck b => Sys2Proof.Machine.execSyncFrameCheck b s
  | .syncAppend len b => Sys2Proof.Machine.execSyncAppend len b s
  -- the field decoder (R100, R101)
  | .decode => Sys2Proof.Machine.execDecode s
  | .decodeLenErr n => Sys2Proof.Machine.execDecodeLenErr n s
  -- the host operations (R90, R138 to R140)
  | .reset feed => Sys2Proof.Machine.execReset feed s
  | .feed => Sys2Proof.Machine.execFeed s
  | .readLatest => Sys2Proof.Machine.execReadLatest s
  | .readStatus => Sys2Proof.Machine.execReadStatus s

end Sys2Proof.Machine
end

