-- ==== Sys2Proof/Machine/Schedule.lean ====
section
/-! DEFINITION. Which move comes next: a clock edge (R131 to R134), the byte step as a function (R80, R89), the feed pass as a
function (R90), the environment's actions (R141, R142), and where a word of the opcode table is placed. -/

namespace Sys2Proof.Machine

/-- The end of a pass for want of a byte: "no available byte" (R90, R133). -/
def State.closePass (s : State) : State := (s.setPass false).quiet

/-- An edge at which the block has nothing to do: no pass is open and no strobe is asserted (R133). Only the event output
registers change (R134). -/
def State.idle (s : State) : State := s.quiet

/-- What a rising edge does. -/
inductive EdgeMove where
  /-- It runs this operation. -/
  | run (i : Instr)
  /-- It ends the pass for want of a byte. -/
  | close
  /-- It does nothing. -/
  | idle
  /-- The selector word matches no row; never (R65). -/
  | stuck (e : DecodeError)
  deriving DecidableEq, Repr

/-- The byte move of an open pass: the operation that the selector word selects, or, with no byte available to this pass, its
end (R81, R90, R133). -/
def State.byteMove (s : State) : EdgeMove :=
  match s.inData with
  | none => .close
  | some b =>
    match decodeSelector (s.selector b) with
    | .ok i => .run i
    | .error e => .stuck e

/-- What a rising edge with strobes `hc` does: rst wins over everything (R131, D22); an open pass takes a byte or ends, and
feed has no effect on it; otherwise feed opens a pass (R133). -/
def State.edgeMove (s : State) (hc : BitVec 2) : EdgeMove :=
  match decodeStrobe hc with
  | .ok (.reset f) => .run (.reset f)
  | .ok i => if s.passOpen then s.byteMove else .run i
  | .error _ => if s.passOpen then s.byteMove else .idle

/-- Make a move. -/
def State.doMove (s : State) : EdgeMove → Out
  | .run i => exec i s
  | .close => .next s.closePass
  | .idle => .next s.idle
  | .stuck e => .refused (.undecodable e)

/-- One rising edge with strobes `hc` (R131 to R134). -/
def State.edge (s : State) (hc : BitVec 2) : Out := s.doMove (s.edgeMove hc)

/-- `Step(S, b)` (R80, R89): the byte step on a byte at the head of STREAM. Its event is the entry it adds to `trace`, and its
action is `abort` when it clears PASS_OPEN. -/
def State.stepByte (s : State) (b : Byte) : Out :=
  match decodeSelector (s.selector b) with
  | .ok i => exec i { s with stream := b :: s.stream }
  | .error e => .refused (.undecodable e)

/-- `Run(S, B)` (R93): the fold of Step over a byte sequence. Pass boundaries do not stop it. -/
def State.runBytes (s : State) : List Byte → Out
  | [] => .next s
  | b :: bs =>
    match s.stepByte b with
    | .next t => t.runBytes bs
    | .fault f => .fault f
    | .refused r => .refused r

/-- The loop of R90 over the bytes available at the start of the pass. -/
def State.feedLoop (s : State) : List Byte → Out
  | [] => .next s.closePass
  | b :: q =>
    match { s with stream := q }.stepByte b with
    | .next t => if t.passOpen then t.feedLoop q else .next t
    | .fault f => .fault f
    | .refused r => .refused r

/-- `Feed(S, Q)` (R90) in the function form, "with no arrivals during the pass". -/
def State.feedPass (s : State) : Out := (s.setPass true).feedLoop s.stream

/-- Feed passes with arrivals between them: each chunk is pushed, then one pass runs (R93). -/
def State.feedChunks (s : State) : List (List Byte) → Out
  | [] => .next s
  | c :: cs =>
    match { s with stream := s.stream ++ c }.feedPass with
    | .next t => t.feedChunks cs
    | .fault f => .fault f
    | .refused r => .refused r

/-- The decoder sub-block's length input takes a 6-bit word (R71, R137); a wider one is refused there (U11). -/
def State.presentLength (s : State) (w : Nat) : Out :=
  match decodeWord .decLen w with
  | .ok i => exec i s
  | .error e => .refused (.undecodable e)

/-- Sampling one rec_* port (R135, R177). -/
def State.sampleField (s : State) (f : RecField) : Out :=
  match s.readField f with
  | .ok v => .next (s.observe (.recField f v))
  | .error e => .fault e

/-- The environment's next action, the earlier ones already gone from `inputs`; with none left, clock edges without a strobe
follow for ever (R94, R133). `inputs` is a finite list, so a feeder that never stops (R180) is met as its finite prefixes:
log 26. -/
def State.act (s : State) : Out :=
  match s.inputs with
  | [] => s.edge 0
  | .edge hc :: rest => { s with inputs := rest }.edge hc
  | .await :: rest => if s.passOpen then s.edge 0 else .next { s with inputs := rest }
  | .drain :: rest =>
    if s.passOpen then s.edge 0
    else if s.stream = [] then .next { s with inputs := rest }
    else s.edge 1
  | .push bs :: rest => .next ({ s with inputs := rest }.push bs false)
  | .pushLate bs :: rest => .next ({ s with inputs := rest }.push bs true)
  | .readLatest :: rest => exec .readLatest { s with inputs := rest }
  | .readStatus :: rest => exec .readStatus { s with inputs := rest }
  | .readField f :: rest => { s with inputs := rest }.sampleField f
  | .driveFrame bus :: rest => .next { s with inputs := rest, decFrame := bus }
  | .decLen w :: rest => { s with inputs := rest }.presentLength w
  | .decCall n :: rest => exec (decodeLength n) { s with inputs := rest }

/-- Give the cells below `n` that hold no value the start-marker byte, so that a state placed at BUF_LEN `n` has a whole live
prefix (R28). Cells that hold a value keep it. Log 16. -/
def fillCells (m : Memory) : Nat → Memory
  | 0 => m
  | n + 1 =>
    match Memory.read m n with
    | some _ => fillCells m n
    | none => fillCells (Memory.write m n Config.startMarker) n

/-- Place a selector word: the state and the head byte that form it, an open pass with no byte held back, and an edge with no
strobe (log 16). -/
def State.placeSelector (s : State) (w : BitVec 15) : State :=
  { s with
    syncState := SyncState.ofBit (selSync w)
    bufLen := selLen w
    frameBuf := fillCells s.frameBuf (min (selLen w).toNat Config.frameLen)
    stream := selByte w :: s.stream
    passOpen := true
    heldBack := 0
    inputs := .edge 0 :: s.inputs }

/-- Place a strobe word as the next edge; FEED needs a closed pass to be taken (R133). -/
def State.placeStrobe (s : State) (w : BitVec 2) : State :=
  { s with passOpen := s.passOpen && w != 1, inputs := .edge w :: s.inputs }

/-- Place a length word as the next action. -/
def State.placeLength (s : State) (w : Nat) : State := { s with inputs := .decLen w :: s.inputs }

/-- Place a word of the opcode table where the next step takes its operation from (log 15, log 16). -/
def State.placeWord (s : State) (nbits w : Nat) : State :=
  match tableChannel nbits w with
  | some .selector => s.placeSelector (BitVec.ofNat 15 w)
  | some .strobe => s.placeStrobe (BitVec.ofNat 2 w)
  | some .decLen => s.placeLength w
  | some .recPorts => { s with inputs := .readLatest :: s.inputs }
  | some .statusPort => { s with inputs := .readStatus :: s.inputs }
  | none => s

end Sys2Proof.Machine
end

