-- ==== Sys2Proof/Machine/Step.lean ====
section
/-! DEFINITION. The step of the machine, and how a word of the opcode table is placed for the next step. -/

namespace Sys2Proof.Machine

/-- One step: the environment's next action, or the block's next move at an edge with no strobe (R133, R141). -/
def step (s : State) : Host.Outcome State Fault Refusal := s.act

/-- The state with a word of the opcode table placed so that the next step runs its operation (log 15, log 16). -/
def State.withFetchWord (s : State) (nbits w : Nat) : State := s.placeWord nbits w

end Sys2Proof.Machine
end

