-- ==== Sys2Proof/Machine/Ports.lean ====
section
/-! DEFINITION. The output ports of the composite block and of the decoder sub-block, as functions of the state and the
inputs (R130, R135, R136, R137). The inputs in_valid and in_data are `State.inValid` and `State.inData`. -/

namespace Sys2Proof.Machine

/-- The output ports of the composite block (R130). `recPorts` holds all the rec_* ports; it is `none` while rec_valid is 0,
because they then hold no value (R135, U3). -/
structure PortsOut where
  inReady : Bool
  passBusy : Bool
  evtValid : Bool
  evtCode : BitVec 4
  recValid : Bool
  recPorts : Option Record
  status : BitVec 8
  deriving DecidableEq, Repr

/-- The outputs while the reset input is `rst`; `in_ready = PASS_OPEN & ~rst` (R130). -/
def State.portsOut (s : State) (rst : Bool) : PortsOut where
  inReady := s.passOpen && !rst
  passBusy := s.passOpen
  evtValid := s.evtValid
  evtCode := s.evtCode
  recValid := s.recValid
  recPorts := s.readLatest
  status := s.status

/-- The outputs of the decoder sub-block (R137); `decR` holds all the dec_r_* ports, valid when dec_ok. -/
structure DecPortsOut where
  decOk : Bool
  decLenErr : Bool
  decR : Option Record
  deriving DecidableEq, Repr

/-- The sub-block: "its outputs are a function of its inputs alone, with no clock and no state" (R137). -/
def decPorts (bus : BitVec 384) (len : BitVec 6) : DecPortsOut :=
  match decodeFrame (Frame.ofBus bus) len.toNat with
  | .record r => { decOk := true, decLenErr := false, decR := some r }
  | .lenError _ => { decOk := false, decLenErr := true, decR := none }

end Sys2Proof.Machine
end

