-- ==== Sys2Proof/Machine/Script.lean ====
section
/-! DEFINITION. Host scripts: the statements (R73), the pseudo-statements and their expansions (R74), the actions they stand
for, and a reader of their text. -/

namespace Sys2Proof.Machine

/-- One statement of a host script (R73, R74). A frame's name is a list of characters. -/
inductive Stmt where
  | reset
  | push (bs : List Byte)
  | feed
  | read
  | status
  /-- `FRAME name = …`: defines a name, emits no statement. -/
  | frame (name : List Char) (entries : List (Nat × Byte))
  | pushf (name : List Char)
  | send (bs : List Byte)
  | drain
  deriving DecidableEq, Repr

/-- The frame every FRAME statement starts from: `F[0] = F[24] = 0x76`, `F[21] = 0x01`, every other offset 0x00 (R74). -/
def baseFrame : List Byte :=
  (((List.replicate Config.frameLen (0 : Byte)).set 0 Config.startMarker).set Config.cmdEndOff 0x01).set
    Config.respStartOff Config.startMarker

/-- The 48 bytes of a FRAME statement: the base with each listed offset set, a later entry over an earlier one (R74). -/
def frameBytes (entries : List (Nat × Byte)) : List Byte :=
  entries.foldl (fun F e => F.set e.1 e.2) baseFrame

/-- One FEED statement of a single-threaded host: the strobe, and the wait for the pass to return (R72, R90). -/
def feedInputs : List Input := [.edge 1, .await]

/-- The actions of one statement, given the frames named so far; `none` for an unknown name or a FRAME offset above 47, which
R74 does not give a meaning (log 25). -/
def Stmt.inputs (env : List (List Char × List Byte)) : Stmt → Option (List Input)
  | .reset => some [.edge 2]
  | .push bs => some [.push bs]
  | .feed => some feedInputs
  | .read => some [.readLatest]
  | .status => some [.readStatus]
  | .frame _ entries => if entries.all fun e => e.1 < Config.frameLen then some [] else none
  | .pushf name => (env.find? fun e => e.1 = name).map fun e => [.push e.2]
  | .send bs => some (.push bs :: feedInputs)
  | .drain => some (feedInputs ++ [.drain])

/-- The frames named after a statement. DESIGN CHOICE, safe: R74 does not say which of two FRAME statements for one name PUSHF
uses; here it is the latest before the PUSHF. Log 25. -/
def Stmt.define (env : List (List Char × List Byte)) : Stmt → List (List Char × List Byte)
  | .reset => env
  | .push _ => env
  | .feed => env
  | .read => env
  | .status => env
  | .frame name entries => (name, frameBytes entries) :: env
  | .pushf _ => env
  | .send _ => env
  | .drain => env

/-- The actions of a whole script, statement by statement (R73). -/
def scriptInputs (env : List (List Char × List Byte)) : List Stmt → Option (List Input)
  | [] => some []
  | st :: rest =>
    match st.inputs env, scriptInputs (st.define env) rest with
    | some now, some later => some (now ++ later)
    | _, _ => none

/-- A state whose environment will carry out the script after what it is already about to do (R143). -/
def State.loadScript (s : State) (script : List Stmt) : Option State :=
  (scriptInputs [] script).map fun acts => { s with inputs := s.inputs ++ acts }

/-- The characters that are a word by themselves in a FRAME statement: equals, comma, colon and the two braces, of code
points 123 and 125 (R74). -/
def isMark (c : Char) : Bool :=
  c == '=' || c == ',' || c == ':' || c == Char.ofNat 123 || c == Char.ofNat 125

/-- Does the character separate words? -/
def isGap (c : Char) : Bool := c == ' ' || c == '\t' || c == '\r'

/-- Put a finished word, if it has any character, before the words that follow. -/
def addWord (w : List Char) (ws : List (List Char)) : List (List Char) := if w = [] then ws else w :: ws

/-- The words of one line; `;` begins a comment (R73). `w` is the word being read. -/
def lineWords (w : List Char) : List Char → List (List Char)
  | [] => addWord w []
  | c :: cs =>
    if c == ';' then addWord w []
    else if isGap c then addWord w (lineWords [] cs)
    else if isMark c then addWord w ([c] :: lineWords [] cs)
    else lineWords (w ++ [c]) cs

/-- The value of a hex digit. -/
def hexDigit (c : Char) : Option Nat :=
  if '0' ≤ c ∧ c ≤ '9' then some (c.toNat - 48)
  else if 'A' ≤ c ∧ c ≤ 'F' then some (c.toNat - 55)
  else if 'a' ≤ c ∧ c ≤ 'f' then some (c.toNat - 87)
  else none

/-- A hex byte is two digits (R73). -/
def hexByte : List Char → Option Byte
  | [a, b] =>
    match hexDigit a, hexDigit b with
    | some x, some y => some (BitVec.ofNat 8 (16 * x + y))
    | _, _ => none
  | _ => none

/-- A list of hex bytes. -/
def hexBytes : List (List Char) → Option (List Byte)
  | [] => some []
  | w :: ws =>
    match hexByte w, hexBytes ws with
    | some b, some bs => some (b :: bs)
    | _, _ => none

/-- A decimal offset, the value read so far in `n`. -/
def decimal (n : Nat) : List Char → Option Nat
  | [] => some n
  | c :: cs => if '0' ≤ c ∧ c ≤ '9' then decimal (10 * n + (c.toNat - 48)) cs else none

/-- The entries `k: hh, …` of a FRAME statement up to its closing brace (R74). -/
def frameEntries : List (List Char) → Option (List (Nat × Byte))
  | k :: colon :: hh :: next :: rest =>
    match decimal 0 k, hexByte hh with
    | some n, some b =>
      if colon ≠ [':'] then none
      else if next = [','] then (frameEntries rest).map fun es => (n, b) :: es
      else if next = [Char.ofNat 125] ∧ rest = [] then some [(n, b)]
      else none
    | _, _ => none
  | [close] => if close = [Char.ofNat 125] then some [] else none
  | _ => none

/-- The statement that the words of a line spell (R73, R74). -/
def readStmt : List (List Char) → Option Stmt
  | [] => none
  | word :: rest =>
    if word = ['R', 'E', 'S', 'E', 'T'] ∧ rest = [] then some .reset
    else if word = ['F', 'E', 'E', 'D'] ∧ rest = [] then some .feed
    else if word = ['R', 'E', 'A', 'D'] ∧ rest = [] then some .read
    else if word = ['S', 'T', 'A', 'T', 'U', 'S'] ∧ rest = [] then some .status
    else if word = ['D', 'R', 'A', 'I', 'N'] ∧ rest = [] then some .drain
    else if word = ['P', 'U', 'S', 'H'] then (hexBytes rest).map Stmt.push
    else if word = ['S', 'E', 'N', 'D'] then (hexBytes rest).map Stmt.send
    else if word = ['P', 'U', 'S', 'H', 'F'] then
      match rest with
      | [name] => some (.pushf name)
      | _ => none
    else if word = ['F', 'R', 'A', 'M', 'E'] then
      match rest with
      | name :: eq :: brace :: more =>
        if eq = ['='] ∧ brace = [Char.ofNat 123] then (frameEntries more).map (Stmt.frame name) else none
      | _ => none
    else none

/-- The lines of a text. `l` is the line being read. -/
def textLines (l : List Char) : List Char → List (List Char)
  | [] => [l]
  | c :: cs => if c == '\n' then l :: textLines [] cs else textLines (l ++ [c]) cs

/-- The statements of a script's lines; a line with no word holds none (R73). -/
def readLines : List (List Char) → Option (List Stmt)
  | [] => some []
  | l :: ls =>
    match lineWords [] l with
    | [] => readLines ls
    | w :: ws =>
      match readStmt (w :: ws), readLines ls with
      | some st, some sts => some (st :: sts)
      | _, _ => none

/-- A host script read from its text, "one statement per line" (R73); `none` where a line is no statement. -/
def readScript (text : List Char) : Option (List Stmt) := readLines (textLines [] text)

end Sys2Proof.Machine
end

