-- ==== Sys2Proof/Safety.lean ====
section
/-! DEFINITION. What counts as a sound state and a sound run, in the terms the statements use: the invariants INV1 and INV2
(R23, R24), the live prefix (R28, R56), the forms of memory, record and event registers, and the host's duties (R142). -/

namespace Sys2Proof.Machine

/-- INV1 (R23): SYNC_STATE is WAIT exactly when BUF_LEN is 0. -/
def State.Inv1 (s : State) : Prop := s.syncState = .wait ↔ s.bufLen = 0

/-- INV2 (R24): in ACC, (a) BUF_LEN is 1 to 47, (b) `FB[0]` is the start marker, (c) from 24 bytes on `FB[21]` is not 0x00. -/
def State.Inv2 (s : State) : Prop :=
  s.syncState = .acc →
    (1 ≤ s.bufLen.toNat ∧ s.bufLen.toNat ≤ 47) ∧
    Memory.read s.frameBuf 0 = some Config.startMarker ∧
    (24 ≤ s.bufLen.toNat → ∃ v, Memory.read s.frameBuf 21 = some v ∧ v ≠ Config.cmdEndBad)

/-- Every cell of the live prefix `FB[0 .. BUF_LEN-1]` holds a value (R28). -/
def State.LivePrefix (s : State) : Prop := ∀ i, i < s.bufLen.toNat → (Memory.read s.frameBuf i).isSome = true

/-- The record's domain bits are those of its codes, as in every record DEC can produce (R20, R118, R119). -/
def Record.Consistent (r : Record) : Prop :=
  r.runStateKnown = isRunStateKnown r.runState ∧ r.errCodeKnown = isErrorCodeKnown r.errCode

/-- LATEST holds a record DEC can produce whenever REC_VALID is 1 (R20, R27). -/
def State.RecordInv (s : State) : Prop := s.recValid = true → s.latest.Consistent

/-- The event registers hold no event and the code 0x0, or an event and one of the codes the composite block produces
(R70, R134, R124). -/
def State.EventInv (s : State) : Prop :=
  if s.evtValid then s.evtCode = 0x1 ∨ s.evtCode = 0x2 ∨ s.evtCode = 0x5 ∨ s.evtCode = 0x6 ∨ s.evtCode = 0x7
  else s.evtCode = 0x0

/-- The bytes held back are bytes of STREAM, and there are none once the pass is over (R90, log 9). -/
def State.HoldInv (s : State) : Prop := s.heldBack ≤ s.stream.length ∧ (s.passOpen = false → s.heldBack = 0)

/-- The invariant of the machine. -/
structure State.Inv (s : State) : Prop where
  inv1 : s.Inv1
  inv2 : s.Inv2
  live : s.LivePrefix
  memory : Memory.wf s.frameBuf = true
  record : s.RecordInv
  events : s.EventInv
  hold : s.HoldInv

/-- The host keeps to R142 and R137 at the next step: it does not use a field while REC_VALID is 0, and presents only 6-bit
lengths at the port. -/
def State.hostLegal (s : State) : Bool :=
  match s.inputs with
  | .readField _ :: _ => s.recValid
  | .decLen w :: _ => w < 64
  | _ => true

/-- The events of a list of observations, in order (R93, R143). -/
def eventsOf (os : List Obs) : List Event :=
  os.filterMap fun o =>
    match o with
    | .event e => some e
    | .latest _ => none
    | .status _ => none
    | .recField _ _ => none
    | .decoded _ => none

/-- The events of the composite block in a list of observations: all but LEN_ERR, which only the decoder sub-block reports
(R124). -/
def blockEventsOf (os : List Obs) : List Event := (eventsOf os).filter fun e => e.code != 0x8

/-- The bytes that a list of actions pushes, in order (R29). -/
def pushedBytes (ins : List Input) : List Byte :=
  ins.flatMap fun i =>
    match i with
    | .push bs => bs
    | .pushLate bs => bs
    | _ => []

/-- Two states that agree on SYNC_STATE, BUF_LEN, FRAME_BUF, LATEST and REC_VALID: pass boundaries show in none of them. -/
def State.SameBlock (s t : State) : Prop :=
  s.syncState = t.syncState ∧ s.bufLen = t.bufLen ∧ s.frameBuf = t.frameBuf ∧ s.latest = t.latest ∧
    s.recValid = t.recValid

/-- Two states of the block that agree on all that R93 compares, and on all observations. -/
def State.SameRun (s t : State) : Prop := s.SameBlock t ∧ s.trace = t.trace

/-- What a pass over a non-empty STREAM achieves (R92): it is over, it has consumed a non-empty run of bytes from the head, and
all of them unless its last event is FERR_CMD. -/
def State.ProgressedTo (s t : State) : Prop :=
  t.passOpen = false ∧ (∃ c, c ≠ [] ∧ s.stream = c ++ t.stream) ∧
    (t.stream = [] ∨ ∃ os, t.trace = s.trace ++ os ++ [.event .ferrCmd])

/-- Two states that may differ only in dead cells of FRAME_BUF (R28, R56). -/
def State.SameButDead (s t : State) : Prop :=
  t = { s with frameBuf := t.frameBuf } ∧
    ∀ i, i < s.bufLen.toNat → Memory.read t.frameBuf i = Memory.read s.frameBuf i

/-- Two answers that agree up to dead cells. -/
def Out.SameButDead : Out → Out → Prop
  | .next s, .next t => s.SameButDead t
  | .fault f, .fault g => f = g
  | .refused r, .refused q => r = q
  | _, _ => False

/-- `t` holds `v` at address `a` of FRAME_BUF, and every other address reads as in `s`. -/
def State.StoresAt (s t : State) (a : Nat) (v : Byte) : Prop :=
  Memory.read t.frameBuf a = some v ∧ ∀ c, c ≠ a → Memory.read t.frameBuf c = Memory.read s.frameBuf c

/-- Byte `i` of the frame on dec_frame, as its port bits `dec_frame[8i+7:8i]` (R137). -/
def busByte (bus : BitVec 384) (i : Nat) : Byte := bus.extractLsb' (8 * i) 8

/-- The two bytes `i` and `i + 1` of dec_frame, the one at the lower offset the high byte (R44). -/
def busHalf (bus : BitVec 384) (i : Nat) : Half := busByte bus i ++ busByte bus (i + 1)

/-- Some number of steps, each answered by a next state, leads from `s` to `t`. -/
def State.Reaches (s t : State) : Prop := ∃ n, Sys2Proof.core.run n s = .next t

/-- A frame whose markers are all right but for the command end marker (R97). -/
def Frame.onlyCmdEndBad (F : Frame) : Bool :=
  F.at 0 == Config.startMarker && F.at 21 == Config.cmdEndBad && F.at 24 == Config.startMarker
    && F.at 45 == Config.respEndOk

/-- A frame whose markers are all right but for the response end marker (R98). -/
def Frame.onlyRespEndBad (F : Frame) : Bool :=
  F.at 0 == Config.startMarker && F.at 21 != Config.cmdEndBad && F.at 24 == Config.startMarker
    && F.at 45 != Config.respEndOk

end Sys2Proof.Machine
end

