-- ==== Sys2Proof/Certificates/Slice0/Obligations.lean ====
section
/-! DEFINITION. The statements for the provers. Each formalises the rule of spec/ its docstring names. -/

open Sys2Proof Sys2Proof.Machine

/-! ### The step and the encodings -/

/-- A step runs the operation the selector word selects (R81, R132, R133): at an edge without rst, with a pass open and a byte
at the head of STREAM that is available to it (in_valid as log 27 reads it; log 9), the step is `exec` of the operation the selector word decodes to, on the
state with the edge gone from the environment's actions. A host that waits or drains stays in the list while the pass is open,
and with no action left edges without a strobe follow by themselves (log 1). -/
def Obligations.StepRunsByteOperation : Prop :=
  ∀ (s : State) (b : Byte) (q : List Byte) (i : Instr),
    s.passOpen = true → s.inValid = true → s.stream = b :: q →
    decodeWord .selector (selectorWord s.syncState.bit s.bufLen b).toNat = .ok i →
    (s.inputs = [] → step s = exec i s) ∧
    (∀ rest, s.inputs = .await :: rest → step s = exec i s) ∧
    (∀ rest, s.inputs = .drain :: rest → step s = exec i s) ∧
    (∀ hc rest, s.inputs = .edge hc :: rest → hc.getLsbD 1 = false →
      step s = exec i { s with inputs := rest })

/-- A step runs the host operation that the strobes, a length word or a sample name (R71, R72, R133, R138, R139): RESET at any
time, FEED when no pass is open. -/
def Obligations.StepRunsHostOperation : Prop :=
  ∀ (s : State) (rest : List Input) (i : Instr),
    (∀ hc f, s.inputs = .edge hc :: rest → decodeWord .strobe hc.toNat = .ok i → i = .reset f →
      step s = exec i { s with inputs := rest }) ∧
    (∀ hc, s.inputs = .edge hc :: rest → s.passOpen = false → decodeWord .strobe hc.toNat = .ok i →
      step s = exec i { s with inputs := rest }) ∧
    (∀ w, s.inputs = .decLen w :: rest → decodeWord .decLen w = .ok i → step s = exec i { s with inputs := rest }) ∧
    (∀ n, s.inputs = .decCall n :: rest → step s = exec (decodeLength n) { s with inputs := rest }) ∧
    (s.inputs = .readLatest :: rest → decodeWord .recPorts 0 = .ok i → step s = exec i { s with inputs := rest }) ∧
    (s.inputs = .readStatus :: rest → decodeWord .statusPort 0 = .ok i → step s = exec i { s with inputs := rest })

/-- A pass ends at the first edge with no byte available to it (R90, R133), STREAM and the block as they are. That held-back bytes
are none, and are held back no longer, is the model's choice (log 9, log 27), and so is that the edge comes by itself with no
action left, or with a host that waits or drains (log 1). -/
def Obligations.PassEndsWithoutByte : Prop :=
  ∀ s : State, s.passOpen = true → s.inValid = false →
    (s.inputs = [] → step s = .next { s with passOpen := false, heldBack := 0, evtValid := false, evtCode := 0 }) ∧
    (∀ rest, s.inputs = .await :: rest ∨ s.inputs = .drain :: rest →
      step s = .next { s with passOpen := false, heldBack := 0, evtValid := false, evtCode := 0 }) ∧
    ∀ hc rest, s.inputs = .edge hc :: rest → hc.getLsbD 1 = false →
      step s = .next { s with
        inputs := rest, passOpen := false, heldBack := 0, evtValid := false, evtCode := 0 }

/-- The selector words of V-B1 to V-B19 and the length and strobe words decode to the operations they stand for. -/
def Obligations.WrittenWordsDecode : Prop :=
  decodeWord .selector 0x0076 = .ok .syncStart ∧
  decodeWord .selector 0x0077 = .ok (.syncDiscard 0x77) ∧
  decodeWord .selector 0x4576 = .ok (.syncAppend 5 0x76) ∧
  decodeWord .selector 0x57FF = .ok (.syncCmdCheck 0xFF) ∧
  decodeWord .selector 0x6F00 = .ok (.syncFrameCheck 0x00) ∧
  decodeWord .selector 0x7000 = .ok (.syncReservedAhi 48 0x00) ∧
  decodeWord .decLen 0x30 = .ok .decode ∧
  decodeWord .decLen 0x2F = .ok (.decodeLenErr 47) ∧
  decodeWord .strobe 0b10 = .ok (.reset false) ∧
  decodeWord .strobe 0b01 = .ok .feed

/-- "Every 15-bit value matches exactly one row under the priority order" (R65): there is one row that the word hits and that
no earlier row hits. -/
def Obligations.EverySelectorWordHasOneRow : Prop :=
  ∀ w : BitVec 15, ∃! n : Nat, (∃ r, selectorRows[n]? = some r ∧ r.hits w = true) ∧
    ∀ m, m < n → ∀ r, selectorRows[m]? = some r → r.hits w = false

/-- Decode and encode agree: the word of every well-formed operation, on its channel, decodes to the operation, every operand
included (R64, R65, R71, R72). -/
def Obligations.DecodeOfEncode : Prop :=
  ∀ i : Instr, i.wellFormed = true → decodeWord (encode i).1 (encode i).2 = .ok i

/-- Encode and decode agree: whatever a word on a channel decodes to is well-formed and has that word and channel, so no bit of
a word is dropped (R64, R65, R71, R72). -/
def Obligations.EncodeOfDecode : Prop :=
  ∀ (ch : Channel) (w : Nat) (i : Instr), decodeWord ch w = .ok i → i.wellFormed = true ∧ encode i = (ch, w)

/-! ### The byte-step operations -/

/-- SYNC_START (R82): from (WAIT, 0) on the start marker, the state is (ACC, 1) with `FB[0]` the marker, the byte is consumed,
there is no event, and nothing else changes. -/
def Obligations.SyncStartResult : Prop :=
  ∀ (s : State) (q : List Byte), s.syncState = .wait → s.bufLen = 0 → s.stream = 0x76 :: q →
    ∃ t, exec .syncStart s = .next t ∧ s.StoresAt t 0 0x76 ∧
      t = { s with
        syncState := .acc, bufLen := 1, frameBuf := t.frameBuf, stream := q, evtValid := false, evtCode := 0 }

/-- SYNC_DISCARD (R83): from (WAIT, 0) any other byte is consumed, there is no event, and nothing else changes. -/
def Obligations.SyncDiscardResult : Prop :=
  ∀ (s : State) (b : Byte) (q : List Byte), s.syncState = .wait → s.bufLen = 0 → b ≠ 0x76 → s.stream = b :: q →
    exec (.syncDiscard b) s = .next { s with stream := q, evtValid := false, evtCode := 0 }

/-- SYNC_APPEND (R84): in ACC with `n` in 1..22 or 24..46, `FB[n]` becomes the byte, whatever it is, and BUF_LEN `n + 1`; the
byte is consumed, there is no event, and nothing else changes. -/
def Obligations.SyncAppendResult : Prop :=
  ∀ (s : State) (b : Byte) (q : List Byte), s.syncState = .acc → s.stream = b :: q →
    (1 ≤ s.bufLen.toNat ∧ s.bufLen.toNat ≤ 22) ∨ (24 ≤ s.bufLen.toNat ∧ s.bufLen.toNat ≤ 46) →
    ∃ t, exec (.syncAppend s.bufLen b) s = .next t ∧ s.StoresAt t s.bufLen.toNat b ∧
      t.bufLen.toNat = s.bufLen.toNat + 1 ∧
      t = { s with bufLen := t.bufLen, frameBuf := t.frameBuf, stream := q, evtValid := false, evtCode := 0 }

/-- SYNC_CMD_CHECK (R85): in ACC with BUF_LEN 23, `FB[23]` becomes the byte. If `FB[21]` is 0x00, the state is (WAIT, 0), the
event is FERR_CMD (code 0x2) and the pass ends; for every other value BUF_LEN is 24 and there is no event. Nothing else changes,
but that no byte is held back once the pass is over: that clause is the model's choice (log 9), not R85's. -/
def Obligations.SyncCmdCheckResult : Prop :=
  ∀ (s : State) (b v : Byte) (q : List Byte), s.syncState = .acc → s.bufLen = 23 → s.stream = b :: q →
    Memory.read s.frameBuf 21 = some v →
    ∃ t, exec (.syncCmdCheck b) s = .next t ∧ s.StoresAt t 23 b ∧
      t = if v = 0x00 then
          { s with
            syncState := .wait, bufLen := 0, passOpen := false, heldBack := 0, frameBuf := t.frameBuf, stream := q,
            evtValid := true, evtCode := 0x2, trace := s.trace ++ [.event .ferrCmd] }
        else { s with bufLen := 24, frameBuf := t.frameBuf, stream := q, evtValid := false, evtCode := 0 }

/-- SYNC_FRAME_CHECK (R86): in ACC with BUF_LEN 47 and `F = FB[0..46] ++ [b]`, `FB[47]` becomes the byte and the state is
(WAIT, 0). With `m` bit 1 set when `F[24]` is not the start marker and bit 0 set when `F[45]` is not 0x00: if `m` is 0, LATEST
is the record of F, REC_VALID is 1 and the event is RECORD (code 0x1); else the event is FERR_RESP (code 0x4 | m). The pass
goes on in both, and nothing else changes. -/
def Obligations.SyncFrameCheckResult : Prop :=
  ∀ (s : State) (b : Byte) (q : List Byte) (F : Frame), s.syncState = .acc → s.bufLen = 47 → s.stream = b :: q →
    (∀ i : Fin 48, i.1 < 47 → Memory.read s.frameBuf i.1 = some (F.at i)) → F.at 47 = b →
    ∃ t m, exec (.syncFrameCheck b) s = .next t ∧ s.StoresAt t 47 b ∧
      (m.getLsbD 1 = true ↔ F.at 24 ≠ 0x76) ∧ (m.getLsbD 0 = true ↔ F.at 45 ≠ 0x00) ∧
      t = if m = 0 then
          { s with
            syncState := .wait, bufLen := 0, frameBuf := t.frameBuf, stream := q, latest := decodeRecord F,
            recValid := true, evtValid := true, evtCode := 0x1,
            trace := s.trace ++ [.event (.record (decodeRecord F))] }
        else
          { s with
            syncState := .wait, bufLen := 0, frameBuf := t.frameBuf, stream := q, evtValid := true,
            evtCode := 0x4 ||| m.zeroExtend 4, trace := s.trace ++ [.event (.ferrResp m)] }

/-- SYNC_RESERVED_W, SYNC_RESERVED_A0, SYNC_RESERVED_AHI (R87): each faults with INVARIANT_BROKEN of SYNC_STATE and BUF_LEN,
and a step from such a state on any byte is that fault. That `exec` of them faults in every state, selected or not, is the
model's choice (log 7), and so is that a step with no action left takes a byte (log 1), one that is available as log 9 and
log 27 have it. -/
def Obligations.ReservedSelectorsFault : Prop :=
  (∀ (s : State) (len : BitVec 6) (b : Byte),
    exec (.syncReservedW len b) s = .fault (.invariantBroken s.syncState s.bufLen) ∧
    exec (.syncReservedA0 b) s = .fault (.invariantBroken s.syncState s.bufLen) ∧
    exec (.syncReservedAhi len b) s = .fault (.invariantBroken s.syncState s.bufLen)) ∧
  ∀ (s : State) (b : Byte) (q : List Byte), s.passOpen = true → s.inValid = true → s.inputs = [] → s.stream = b :: q →
    (s.syncState = .wait ∧ s.bufLen ≠ 0) ∨ (s.syncState = .acc ∧ (s.bufLen = 0 ∨ 48 ≤ s.bufLen.toNat)) →
    step s = .fault (.invariantBroken s.syncState s.bufLen)

/-! ### The decoder -/

/-- DECODE (R100, R137): the record of the frame on dec_frame is given, each field from its own absolute offset, and no state
of the block changes. -/
def Obligations.DecodeResult : Prop :=
  ∀ s : State, ∃ r, exec .decode s = .next { s with trace := s.trace ++ [.decoded r] } ∧
    r = { curTemp := busByte s.decFrame 3
          desTemp := busByte s.decFrame 4
          runState := busByte s.decFrame 26
          onOff := decide (busByte s.decFrame 27 = 0x01)
          supplyV := busHalf s.decFrame 28
          fanSpeed := busHalf s.decFrame 30
          fanV := busHalf s.decFrame 32
          hxTemp := busHalf s.decFrame 34
          glowV := busHalf s.decFrame 36
          glowI := busHalf s.decFrame 38
          pumpF := busByte s.decFrame 40
          errCode := busByte s.decFrame 41
          runStateKnown := decide ((busByte s.decFrame 26).toNat ≤ 8)
          errCodeKnown := decide ((busByte s.decFrame 41).toNat ≤ 10) }

/-- DECODE_LEN_ERR (R101): every length other than 48 gives no record and the event LEN_ERR with the length (code 0x8), called
at the transaction level with any length or presented at the port with a 6-bit one; no state of the block changes. That
evt_valid and evt_code keep their values is the model's inference (log 17), and so is the split of the port from the
transaction-level call (log 14). -/
def Obligations.DecodeLenErrResult : Prop :=
  ∀ n : Nat, n ≠ 48 →
    (∀ F : Frame, decodeFrame F n = .lenError n) ∧ (Event.lenErr n).code = 0x8 ∧
    (∀ s : State, exec (.decodeLenErr n) s = .next { s with trace := s.trace ++ [.event (.lenErr n)] }) ∧
    (∀ (s : State) (rest : List Input), s.inputs = .decCall n :: rest →
      step s = .next { s with inputs := rest, trace := s.trace ++ [.event (.lenErr n)] }) ∧
    (∀ (s : State) (rest : List Input), s.inputs = .decLen n :: rest → n < 64 →
      step s = .next { s with inputs := rest, trace := s.trace ++ [.event (.lenErr n)] })

/-- The decoder sub-block's outputs (R137), for every frame driven on its bus: dec_ok exactly when the length is 48,
dec_len_err otherwise, and the record of the frame when dec_ok. -/
def Obligations.DecoderPortsOfDrivenFrame : Prop :=
  ∀ (F : Frame) (len : BitVec 6),
    (decPorts F.toBus len).decOk = decide (len = 48) ∧ (decPorts F.toBus len).decLenErr = decide (len ≠ 48) ∧
    (decPorts F.toBus len).decR = if len = 48 then some (decodeRecord F) else none

/-- Decode of a byte sequence of any length (R100, R101): 48 bytes give the record of the frame they are, and any other number
n of bytes gives LenError(n). -/
def Obligations.DecodeOfByteSequence : Prop :=
  (∀ F : Frame, decodeBytes F.1 = .record (decodeRecord F) ∧ decodeFrame F 48 = .record (decodeRecord F)) ∧
  ∀ xs : List Byte, xs.length ≠ 48 → decodeBytes xs = .lenError xs.length

/-- Big-endian 16-bit assembly (R102): `be16` is the concatenation of the high and the low byte, of value `256 hi + lo`. -/
def Obligations.BigEndianAssembly : Prop :=
  ∀ hi lo : Byte, be16 hi lo = hi ++ lo ∧ (be16 hi lo).toNat = 256 * hi.toNat + lo.toNat

/-- The record's fields from absolute offsets, on any frame (R106 to R119): bytes as they are, 16-bit fields with the byte at
the lower offset high, on_off only for 0x01, the domain bits for codes up to 8 and up to 10. -/
def Obligations.RecordFieldOffsets : Prop :=
  ∀ F : Frame,
    (decodeRecord F).curTemp = F.at 3 ∧ (decodeRecord F).desTemp = F.at 4 ∧ (decodeRecord F).runState = F.at 26 ∧
    ((decodeRecord F).onOff = true ↔ F.at 27 = 0x01) ∧ (decodeRecord F).supplyV = F.at 28 ++ F.at 29 ∧
    (decodeRecord F).fanSpeed = F.at 30 ++ F.at 31 ∧ (decodeRecord F).fanV = F.at 32 ++ F.at 33 ∧
    (decodeRecord F).hxTemp = F.at 34 ++ F.at 35 ∧ (decodeRecord F).glowV = F.at 36 ++ F.at 37 ∧
    (decodeRecord F).glowI = F.at 38 ++ F.at 39 ∧ (decodeRecord F).pumpF = F.at 40 ∧
    (decodeRecord F).errCode = F.at 41 ∧ ((decodeRecord F).runStateKnown = true ↔ (F.at 26).toNat ≤ 8) ∧
    ((decodeRecord F).errCodeKnown = true ↔ (F.at 41).toNat ≤ 10)

/-- The scaler is exact (R105): `Scale(raw, k)` times `10^k` is raw, and `Dec(raw, k)` is the decimal digits of `raw div 10^k`,
a point, and exactly k digits whose value is `raw mod 10^k`. -/
def Obligations.ScalerIsExact : Prop :=
  ∀ raw k : Nat, scale raw k * ((10 ^ k : Nat) : Rat) = raw ∧
    ∃ ip fp : List Char, decChars raw k = ip ++ '.' :: fp ∧ dec raw k = String.ofList (ip ++ '.' :: fp) ∧
      ip = Nat.toDigits 10 (raw / 10 ^ k) ∧
      fp.length = k ∧ (∀ c ∈ fp, '0' ≤ c ∧ c ≤ '9') ∧
      fp.foldl (fun n c => 10 * n + (c.toNat - 48)) 0 = raw % 10 ^ k

/-- The values of the fields (R105, R110 to R116): the four fields in units of 0.1 are raw/10, the glow plug current is
raw/100, and the other numeric fields are their raw integers. -/
def Obligations.FieldValues : Prop :=
  ∀ r : Record,
    r.value .supplyV * 10 = r.supplyV.toNat ∧ r.value .fanV * 10 = r.fanV.toNat ∧ r.value .glowV * 10 = r.glowV.toNat ∧
    r.value .pumpF * 10 = r.pumpF.toNat ∧ r.value .glowI * 100 = r.glowI.toNat ∧
    r.value .curTemp = r.curTemp.toNat ∧ r.value .desTemp = r.desTemp.toNat ∧ r.value .fanSpeed = r.fanSpeed.toNat ∧
    r.value .hxTemp = r.hxTemp.toNat ∧ r.value .runState = r.runState.toNat ∧ r.value .errCode = r.errCode.toNat

/-- The descriptions of a decoded record (R120, R118, R119): the sentinel for every code outside the domain, the fixed texts at
the four end points, and the parameter's entry for every code inside. -/
def Obligations.Descriptions : Prop :=
  ∀ F : Frame,
    (8 < (F.at 26).toNat → (decodeRecord F).runStateDesc = "Unknown Run State") ∧
    (10 < (F.at 41).toNat → (decodeRecord F).errorCodeDesc = "Unknown Error Code") ∧
    (F.at 26 = 0 → (decodeRecord F).runStateDesc = "Off/Standby") ∧
    (F.at 26 = 8 → (decodeRecord F).runStateDesc = "Cooldown") ∧
    (F.at 41 = 0 → (decodeRecord F).errorCodeDesc = "No Error") ∧
    (F.at 41 = 10 → (decodeRecord F).errorCodeDesc = "Temperature Sensor Failure") ∧
    (∀ c : Fin 9, (F.at 26).toNat = c.1 → (decodeRecord F).runStateDesc = Config.runStateText c) ∧
    (∀ c : Fin 11, (F.at 41).toNat = c.1 → (decodeRecord F).errorCodeDesc = Config.errorCodeText c)

/-- An ignored offset changes neither the record nor the synchronizer's verdict (R50): two frames that agree on the offsets
0, 3, 4, 21, 24, 26..41 and 45 have the same record and are both valid or both not. -/
def Obligations.IgnoredOffsetsDoNotMatter : Prop :=
  ∀ F G : Frame,
    (∀ i : Fin 48, i.1 ∈ [0, 3, 4, 21, 24, 45] ∨ (26 ≤ i.1 ∧ i.1 ≤ 41) → F.at i = G.at i) →
    decodeRecord F = decodeRecord G ∧ F.valid = G.valid

/-! ### The host operations -/

/-- RESET (R140, R32): whatever the state and the feed strobe, the state is (WAIT, 0) with REC_VALID 0, PASS_OPEN 0, STATUS
0x00 and no event; no cell of FRAME_BUF and no field of LATEST is readable; STREAM, the observations and the sub-block's input
are unchanged. That no byte is held back afterwards is the model's choice (log 9), not R140's. -/
def Obligations.ResetResult : Prop :=
  ∀ (s : State) (feed : Bool), ∃ t, exec (.reset feed) s = .next t ∧
    t.syncState = .wait ∧ t.bufLen = 0 ∧ t.recValid = false ∧ t.passOpen = false ∧ t.status = 0x00 ∧
    t.evtValid = false ∧ t.evtCode = 0x0 ∧ t.readLatest = none ∧
    (∀ f, t.readField f = .error (.recordNotValid f)) ∧ (∀ a, Memory.read t.frameBuf a = none) ∧
    t.stream = s.stream ∧ t.heldBack = 0 ∧ t.inputs = s.inputs ∧ t.trace = s.trace ∧ t.decFrame = s.decFrame

/-- The state after reset (R32, R134): the values the spec gives, STATUS 0x00, no cell and no record readable. -/
def Obligations.ResetStateValues : Prop :=
  State.reset.syncState = .wait ∧ State.reset.bufLen = 0 ∧ State.reset.recValid = false ∧
  State.reset.passOpen = false ∧ State.reset.status = 0x00 ∧ State.reset.evtValid = false ∧ State.reset.evtCode = 0x0 ∧
  State.reset.readLatest = none ∧ (∀ f, State.reset.readField f = .error (.recordNotValid f)) ∧
  ∀ a, Memory.read State.reset.frameBuf a = none

/-- rst wins over feed and over a byte at the same edge (R131, D22): a step at an edge with rst is RESET, the same whether feed
is asserted or not, whether a pass is open or not, and whatever STREAM holds. -/
def Obligations.ResetHasPriority : Prop :=
  ∀ (s : State) (hc : BitVec 2) (rest : List Input), s.inputs = .edge hc :: rest → hc.getLsbD 1 = true →
    step s = exec (.reset false) { s with inputs := rest } ∧
    ∃ t, step s = .next t ∧ t.stream = s.stream ∧ t.syncState = .wait ∧ t.bufLen = 0 ∧ t.passOpen = false

/-- FEED opens a pass (R133): when no pass is open, PASS_OPEN becomes 1, no byte is consumed at that edge, and nothing else but
the event output, which shows no event, changes. Every byte of STREAM is available to the pass (log 9). -/
def Obligations.FeedOpensPass : Prop :=
  ∀ s : State, s.passOpen = false →
    exec .feed s = .next { s with passOpen := true, heldBack := 0, evtValid := false, evtCode := 0 }

/-- READ_LATEST (R138): none while REC_VALID is 0, else the whole record; no state of the block changes. -/
def Obligations.ReadLatestResult : Prop :=
  ∀ s : State,
    exec .readLatest s =
      .next { s with trace := s.trace ++ [.latest (if s.recValid = true then some s.latest else none)] }

/-- READ_STATUS (R139, R31): the status word `{REC_VALID, SYNC_STATE, BUF_LEN}`, bit by bit; no state of the block changes. -/
def Obligations.ReadStatusResult : Prop :=
  ∀ s : State, ∃ w : BitVec 8, exec .readStatus s = .next { s with trace := s.trace ++ [.status w] } ∧
    (w.getLsbD 7 = true ↔ s.recValid = true) ∧ (w.getLsbD 6 = true ↔ s.syncState = .acc) ∧
    w.extractLsb' 0 6 = s.bufLen ∧ w.toNat =
      (if s.recValid = true then 128 else 0) + (if s.syncState = .acc then 64 else 0) + s.bufLen.toNat

/-- A field of LATEST read while REC_VALID is 0 is a fault; while it is 1 the field is given and nothing else changes
(R138, R174). -/
def Obligations.FieldReadNeedsValidRecord : Prop :=
  ∀ (s : State) (f : RecField) (rest : List Input), s.inputs = .readField f :: rest →
    step s = if s.recValid = true then
        .next { s with inputs := rest, trace := s.trace ++ [.recField f (s.latest.field f)] }
      else .fault (.recordNotValid f)

/-- PUSH (R29, R73): the bytes join STREAM's tail, in order, and nothing of the block changes, a pass open or not. An open pass
finds them, unless they are pushed late or stand behind bytes that were: then they are held back for the next pass (R90,
log 9). -/
def Obligations.PushAppendsAtTail : Prop :=
  ∀ (s : State) (bs : List Byte) (rest : List Input),
    (s.inputs = .push bs :: rest →
      step s = .next { s with
        inputs := rest, stream := s.stream ++ bs,
        heldBack := if s.passOpen = true ∧ s.heldBack ≠ 0 then s.heldBack + bs.length else s.heldBack }) ∧
    (s.inputs = .pushLate bs :: rest →
      step s = .next { s with
        inputs := rest, stream := s.stream ++ bs,
        heldBack := if s.passOpen = true then s.heldBack + bs.length else s.heldBack })

/-- A stalled stream leaves the state unchanged for ever (R94): with no open pass and no action of the host, any number of steps
changes nothing but that the event output shows no event. That such a step is an edge without a strobe is the model's choice
(log 1); what the edge does is R133 and R134. -/
def Obligations.StallChangesNothing : Prop :=
  ∀ (s : State) (n : Nat), s.passOpen = false → s.inputs = [] →
    Sys2Proof.core.run (n + 1) s = .next { s with evtValid := false, evtCode := 0 }

/-! ### Clock edges -/

/-- Byte handshake (R132): at an edge that answers a next state, the head of STREAM is taken exactly when in_ready and in_valid
are both 1, and otherwise STREAM is unchanged; at most one byte goes. While bytes are held back (log 9), in_valid is the
model's reading, a byte available to the block, where R130 says that STREAM is non-empty (log 27). -/
def Obligations.OneByteTakenPerEdge : Prop :=
  ∀ (s t : State) (hc : BitVec 2), s.edge hc = .next t →
    t.stream = if (s.portsOut (hc.getLsbD 1)).inReady = true ∧ s.inValid = true then s.stream.tail else s.stream

/-- Pass control (R133), at an edge without rst. While bytes are held back (log 9), in_valid is the model's reading of R133's "no
available byte", where R130 says that STREAM is non-empty (log 27). -/
def Obligations.PassControl : Prop :=
  ∀ (s t : State) (hc : BitVec 2), hc.getLsbD 1 = false → s.edge hc = .next t →
    (s.passOpen = false → t.passOpen = hc.getLsbD 0) ∧
    (s.passOpen = true → s.inValid = false → t.passOpen = false) ∧
    (s.passOpen = true → s.inValid = true →
      (t.passOpen = false ↔ t.trace = s.trace ++ [.event .ferrCmd]))

/-- Event output (R134): at every edge either one event is produced, and evt_valid and evt_code show it, or none is, and they
show 0 and 0x0. -/
def Obligations.EventOutputAtEveryEdge : Prop :=
  ∀ (s t : State) (hc : BitVec 2), s.edge hc = .next t →
    (t.trace = s.trace ∧ t.evtValid = false ∧ t.evtCode = 0x0) ∨
    ∃ e, t.trace = s.trace ++ [.event e] ∧ t.evtValid = true ∧ t.evtCode = e.code

/-- Event codes (R70): each event's code is read back as its kind, FERR_RESP with its cause mask whenever the mask is not 0,
and the codes 0x3, 0x4 and 0x9 to 0xF have no reading. -/
def Obligations.EventCodesReadBack : Prop :=
  (∀ e : Event, e ≠ .ferrResp 0 → EventKind.ofCode e.code = some e.kind) ∧
  ∀ c : BitVec 4, (c = 0x3 ∨ c = 0x4 ∨ 0x9 ≤ c) ↔ EventKind.ofCode c = none

/-! ### Invariants -/

/-- INV1 (R23) holds after reset and every step keeps it. -/
def Obligations.Inv1HoldsAndIsKept : Prop :=
  State.reset.Inv1 ∧ ∀ s t : State, s.Inv1 → step s = .next t → t.Inv1

/-- INV2 (R24) holds after reset and every step keeps it. -/
def Obligations.Inv2HoldsAndIsKept : Prop :=
  State.reset.Inv2 ∧ ∀ s t : State, s.Inv2 → step s = .next t → t.Inv2

/-- The whole invariant is kept by every step, from every state that meets it: INV1, INV2, the live prefix, the canonical form
of FRAME_BUF, the consistency of LATEST's domain bits, the legal event codes, and that only bytes of STREAM are held back, and
only while a pass is open (the model's own field, log 9). -/
def Obligations.StepKeepsInvariant : Prop :=
  ∀ s t : State, s.Inv → step s = .next t → t.Inv

/-- The state after reset meets the invariant. -/
def Obligations.ResetMeetsInvariant : Prop := State.reset.Inv

/-- Every step keeps the canonical form of FRAME_BUF, from every state that has it (the model's form of the store, log 3). -/
def Obligations.StepKeepsFrameBufferForm : Prop :=
  ∀ s t : State, Memory.wf s.frameBuf = true → step s = .next t → Memory.wf t.frameBuf = true

/-- Nothing is fatal (R67, R56, R142): from every state that meets the invariant, while the host uses no field of a record that
is not there and presents only 6-bit lengths, the step answers a next state. The reserved selector rows, cells without a value
and cells out of range are not reached. -/
def Obligations.NoStopUnderInvariant : Prop :=
  ∀ s : State, s.Inv → s.hostLegal = true → ∃ t, step s = .next t

/-- BUF_LEN in a byte step (R22): it stays 0 on a discard, goes from 0 to 1 on the start marker, from n to n + 1 in ACC, but to
0 at 23 when the command check fails and always at 47; it never exceeds 47. -/
def Obligations.BufLenInByteStep : Prop :=
  ∀ (s t : State) (b : Byte), s.stepByte b = .next t →
    t.bufLen.toNat ≤ 47 ∧
    (s.syncState = .wait → t.bufLen.toNat = if b = 0x76 then 1 else 0) ∧
    (s.syncState = .acc → s.bufLen.toNat ≠ 23 → s.bufLen.toNat ≠ 47 → t.bufLen.toNat = s.bufLen.toNat + 1) ∧
    (s.syncState = .acc → s.bufLen.toNat = 23 →
      t.bufLen.toNat = if Memory.read s.frameBuf 21 = some 0 then 0 else 24) ∧
    (s.syncState = .acc → s.bufLen.toNat = 47 → t.bufLen.toNat = 0)

/-! ### Events, errors and records -/

/-- One step produces at most one event, and an event of a byte step is RECORD, FERR_CMD or FERR_RESP with a mask that is not
0 (R152, R155). -/
def Obligations.AtMostOneEventPerStep : Prop :=
  ∀ s t : State, step s = .next t →
    ∃ os, t.trace = s.trace ++ os ∧ (eventsOf os).length ≤ 1 ∧ Event.ferrResp 0 ∉ eventsOf os

/-- Error entry (R157, R95): a step that reports a framing error leaves (WAIT, 0), ends the pass exactly for FERR_CMD, consumes
the byte that triggers it, writes only the cell at BUF_LEN, and changes nothing else of the block; LATEST and REC_VALID are
kept. -/
def Obligations.FramingErrorEntry : Prop :=
  ∀ (s t : State) (e : Event), step s = .next t → t.trace = s.trace ++ [.event e] → e.isFramingError = true →
    t.syncState = .wait ∧ t.bufLen = 0 ∧ t.passOpen = (if e = .ferrCmd then false else s.passOpen) ∧
    s.stream ≠ [] ∧ t.stream = s.stream.tail ∧ t.latest = s.latest ∧ t.recValid = s.recValid ∧
    t.decFrame = s.decFrame ∧
    ∀ a, a ≠ s.bufLen.toNat → Memory.read t.frameBuf a = Memory.read s.frameBuf a

/-- LATEST and REC_VALID change together (R27, R48): a step that answers a next state keeps both, or it reports RECORD and LATEST
is that record and REC_VALID is 1, or it is a RESET, after which REC_VALID is 0. -/
def Obligations.RecordRegisterIsAtomic : Prop :=
  ∀ s t : State, step s = .next t →
    (t.latest = s.latest ∧ t.recValid = s.recValid) ∨
    (∃ r, t.trace = s.trace ++ [.event (.record r)] ∧ t.latest = r ∧ t.recValid = true) ∨
    (∃ hc rest, s.inputs = .edge hc :: rest ∧ hc.getLsbD 1 = true ∧ t.recValid = false)

/-- RECORD only for a valid frame (R96): a step that reports RECORD was at (ACC, 47), and its record is that of the 48-byte frame
of the 47 cells and the byte, for which ValidFrame holds. -/
def Obligations.RecordOnlyForValidFrame : Prop :=
  ∀ (s t : State) (r : Record), s.Inv2 → step s = .next t → t.trace = s.trace ++ [.event (.record r)] →
    s.syncState = .acc ∧ s.bufLen = 47 ∧
    ∃ F : Frame, F.valid = true ∧ r = decodeRecord F ∧ s.stream.head? = some (F.at 47) ∧
      ∀ i : Fin 48, i.1 < 47 → Memory.read s.frameBuf i.1 = some (F.at i)

/-- Dead cells are never observable (R56): two states that differ only in dead cells give answers that differ only in dead
cells, whatever the step does. -/
def Obligations.DeadCellsAreUnobservable : Prop :=
  ∀ s t : State, s.SameButDead t → Out.SameButDead (step s) (step t)

/-! ### Whole streams -/

/-- A valid frame gives exactly one record (R96): from (WAIT, 0), in the invariant, the 48 bytes of a frame with ValidFrame give
exactly the event RECORD of its record, and end in (WAIT, 0) with that record in LATEST. -/
def Obligations.ValidFrameGivesItsRecord : Prop :=
  ∀ (s : State) (F : Frame), s.syncState = .wait → s.bufLen = 0 → F.valid = true →
    ∃ t, s.runBytes F.1 = .next t ∧ t.syncState = .wait ∧ t.bufLen = 0 ∧ t.stream = s.stream ∧
      t.trace = s.trace ++ [.event (.record (decodeRecord F))] ∧ t.latest = decodeRecord F ∧ t.recValid = true

/-- Recovery after a corrupted command marker (R97, C7): a frame right but for `F[21] = 0x00` gives exactly two FERR_CMD, and then
any stream G runs as from (WAIT, 0). -/
def Obligations.CorruptCommandMarkerRecovers : Prop :=
  ∀ (s : State) (F : Frame), s.syncState = .wait → s.bufLen = 0 → F.onlyCmdEndBad = true →
    ∃ t, s.runBytes F.1 = .next t ∧ t.syncState = .wait ∧ t.bufLen = 0 ∧
      t.trace = s.trace ++ [.event .ferrCmd, .event .ferrCmd] ∧ t.latest = s.latest ∧ t.recValid = s.recValid ∧
      ∀ G, s.runBytes (F.1 ++ G) = t.runBytes G

/-- Recovery after a corrupted response end marker (R98): a frame right but for `F[45] != 0x00` gives exactly FERR_RESP(0b01), and
then any stream G runs as from (WAIT, 0). -/
def Obligations.CorruptResponseMarkerRecovers : Prop :=
  ∀ (s : State) (F : Frame), s.syncState = .wait → s.bufLen = 0 → F.onlyRespEndBad = true →
    ∃ t, s.runBytes F.1 = .next t ∧ t.syncState = .wait ∧ t.bufLen = 0 ∧
      t.trace = s.trace ++ [.event (.ferrResp 0b01)] ∧ t.latest = s.latest ∧ t.recValid = s.recValid ∧
      ∀ G, s.runBytes (F.1 ++ G) = t.runBytes G

/-- Nothing is fatal (R159): from every state that meets the invariant, 47 bytes that are not 0x76 and then a valid frame bring
the block to the RECORD of that frame. -/
def Obligations.AnyStateRecovers : Prop :=
  ∀ (s : State) (xs : List Byte) (F : Frame), s.Inv → xs.length = 47 → 0x76 ∉ xs → F.valid = true →
    ∃ t os, s.runBytes (xs ++ F.1) = .next t ∧ t.trace = s.trace ++ os ++ [.event (.record (decodeRecord F))] ∧
      t.latest = decodeRecord F ∧ t.recValid = true ∧ t.syncState = .wait ∧ t.bufLen = 0

/-- The machine's steps realise the pass of R90 (R30, R133): a host that asserts feed and waits gets, after some number of steps,
exactly the state of `Feed(S, Q)`. -/
def Obligations.StepsRealiseFeedPass : Prop :=
  ∀ (s u : State) (rest : List Input), s.passOpen = false → s.inputs = .edge 1 :: .await :: rest →
    { s with inputs := rest }.feedPass = .next u → s.Reaches u

/-- A FEED with STREAM empty changes nothing but PASS_OPEN, which is set and cleared, and reports no event (R91). No byte is held
back afterwards (log 9). -/
def Obligations.EmptyFeedChangesNothing : Prop :=
  ∀ (s : State) (rest : List Input), s.passOpen = false → s.stream = [] →
    s.inputs = .edge 1 :: .await :: rest →
    s.feedPass = .next { s with heldBack := 0, evtValid := false, evtCode := 0 } ∧
    s.Reaches { s with inputs := rest, heldBack := 0, evtValid := false, evtCode := 0 }

/-- Progress (R92), for Feed(S, Q) in the function form of R90: a FEED on a non-empty STREAM consumes at least one byte, from the
head, and every byte unless its last event is FERR_CMD; so |STREAM| feeds with no arrivals empty STREAM. From every state that
meets the invariant the pass answers, in the invariant again, and so do the |STREAM| passes; from any other state a pass has the
same effect unless it stops. That the answer meets the invariant is no clause of R92, and the invariant carries the model's own
form of FRAME_BUF (log 3) and its held-back bytes (log 9). -/
def Obligations.FeedMakesProgress : Prop :=
  (∀ s : State, s.Inv → ∃ t, s.feedPass = .next t ∧ t.Inv ∧ (s.stream ≠ [] → s.ProgressedTo t)) ∧
  (∀ s : State, s.Inv → ∃ t, s.feedChunks (List.replicate s.stream.length []) = .next t ∧ t.stream = []) ∧
  (∀ s t : State, s.stream ≠ [] → s.feedPass = .next t → s.ProgressedTo t) ∧
  ∀ s t : State, s.feedChunks (List.replicate s.stream.length []) = .next t → t.stream = []

/-- Bytes pushed while a pass is open (R90, D17, V-S11): both runs are admitted. Where the push joins the pass (b), the machine
reaches what Feed gives on STREAM with those bytes; where it comes too late for the pass (a), or stands behind bytes that did
(`held`), it reaches what Feed gives on the bytes before them, and the rest waits in STREAM. How a run chooses is the model's
(log 9). -/
def Obligations.BytesPushedDuringPass : Prop :=
  ∀ (s : State) (bs held av : List Byte) (rest : List Input), s.Inv → s.passOpen = true →
    s.stream = av ++ held → s.heldBack = held.length →
    (held = [] → s.inputs = .push bs :: .await :: rest →
      ∃ u, { s with inputs := rest, stream := av ++ bs }.feedPass = .next u ∧ s.Reaches u) ∧
    ((held ≠ [] ∧ s.inputs = .push bs :: .await :: rest) ∨ s.inputs = .pushLate bs :: .await :: rest →
      ∃ u, { s with inputs := rest, stream := av }.feedPass = .next u ∧
        s.Reaches { u with stream := u.stream ++ (held ++ bs) })

/-- Chunking invariance (R93): feed passes, with arrivals before each however the bytes are split, consume some bytes c, and end
in the state and with the observations of `Run(S, c)`. -/
def Obligations.ChunkingInvariance : Prop :=
  ∀ (s t : State) (chunks : List (List Byte)), s.feedChunks chunks = .next t →
    ∃ c u, s.stream ++ chunks.flatten = c ++ t.stream ∧ { s with stream := [] }.runBytes c = .next u ∧ u.SameRun t

/-- Chunking invariance over the machine's own runs (R93, R90, R141): whatever the host and the feeder do but RESET, with pushes
anywhere, in a pass or between passes, and after any number of steps, the bytes consumed so far are a run c from the head of
what STREAM held and received, and the block's state and its events, in order, are those of `Run(S, c)`. -/
def Obligations.ChunkingOfRuns : Prop :=
  ∀ (s t : State) (n : Nat), (∀ hc, .edge hc ∈ s.inputs → hc.getLsbD 1 = false) →
    Sys2Proof.core.run n s = .next t →
    ∃ done c u, s.inputs = done ++ t.inputs ∧ s.stream ++ pushedBytes done = c ++ t.stream ∧
      { s with stream := [] }.runBytes c = .next u ∧ u.SameBlock t ∧ blockEventsOf u.trace = blockEventsOf t.trace

/-- DRAIN (R74): a host that invokes FEED again while STREAM is not empty (R142) empties it after some number of steps, from
every state that meets the invariant, and the block is as after `Run(S, STREAM)`. -/
def Obligations.DrainEmptiesStream : Prop :=
  ∀ (s : State) (rest : List Input), s.Inv → s.passOpen = false → s.inputs = .drain :: rest →
    ∃ t u, s.Reaches t ∧ t.inputs = rest ∧ t.stream = [] ∧ t.passOpen = false ∧
      { s with stream := [] }.runBytes s.stream = .next u ∧ u.SameRun t

/-- A FRAME statement of a host script names 48 bytes (R74): the start markers, 0x01 at 21, 0x00 elsewhere, and each listed
offset at its byte, the last entry for an offset winning; with no entry the frame is valid. -/
def Obligations.FrameStatementBytes : Prop :=
  (∀ entries : List (Nat × Byte), (frameBytes entries).length = 48) ∧
  (∀ (entries : List (Nat × Byte)) (k : Nat) (b : Byte), k < 48 →
    (frameBytes (entries ++ [(k, b)]))[k]? = some b ∧
    ∀ j, j ≠ k → (frameBytes (entries ++ [(k, b)]))[j]? = (frameBytes entries)[j]?) ∧
  (∀ j, j < 48 → (frameBytes [])[j]? =
    some (if j = 0 ∨ j = 24 then (0x76 : Byte) else if j = 21 then 0x01 else 0x00)) ∧
  ∀ F : Frame, F.1 = frameBytes [] → F.valid = true
end

