-- ==== Sys2Proof/Laws/State.lean ====
section
/-! SUPPORT. One lemma per field per update of State, true by rfl, so that no later proof unfolds a record update. -/

namespace Sys2Proof.Machine

@[simp] theorem State.consume_syncState (s : State) : s.consume.syncState = s.syncState := rfl
@[simp] theorem State.consume_bufLen (s : State) : s.consume.bufLen = s.bufLen := rfl
@[simp] theorem State.consume_frameBuf (s : State) : s.consume.frameBuf = s.frameBuf := rfl
@[simp] theorem State.consume_latest (s : State) : s.consume.latest = s.latest := rfl
@[simp] theorem State.consume_recValid (s : State) : s.consume.recValid = s.recValid := rfl
@[simp] theorem State.consume_passOpen (s : State) : s.consume.passOpen = s.passOpen := rfl
@[simp] theorem State.consume_evtValid (s : State) : s.consume.evtValid = s.evtValid := rfl
@[simp] theorem State.consume_evtCode (s : State) : s.consume.evtCode = s.evtCode := rfl
@[simp] theorem State.consume_stream (s : State) : s.consume.stream = s.stream.tail := rfl
@[simp] theorem State.consume_heldBack (s : State) : s.consume.heldBack = s.heldBack := rfl
@[simp] theorem State.consume_decFrame (s : State) : s.consume.decFrame = s.decFrame := rfl
@[simp] theorem State.consume_inputs (s : State) : s.consume.inputs = s.inputs := rfl
@[simp] theorem State.consume_trace (s : State) : s.consume.trace = s.trace := rfl
@[simp] theorem State.consume_freeDraws (s : State) : s.consume.freeDraws = s.freeDraws := rfl

@[simp] theorem State.setLen_syncState (s : State) (n : BitVec 6) : (s.setLen n).syncState = s.syncState := rfl
@[simp] theorem State.setLen_bufLen (s : State) (n : BitVec 6) : (s.setLen n).bufLen = n := rfl
@[simp] theorem State.setLen_frameBuf (s : State) (n : BitVec 6) : (s.setLen n).frameBuf = s.frameBuf := rfl
@[simp] theorem State.setLen_latest (s : State) (n : BitVec 6) : (s.setLen n).latest = s.latest := rfl
@[simp] theorem State.setLen_recValid (s : State) (n : BitVec 6) : (s.setLen n).recValid = s.recValid := rfl
@[simp] theorem State.setLen_passOpen (s : State) (n : BitVec 6) : (s.setLen n).passOpen = s.passOpen := rfl
@[simp] theorem State.setLen_evtValid (s : State) (n : BitVec 6) : (s.setLen n).evtValid = s.evtValid := rfl
@[simp] theorem State.setLen_evtCode (s : State) (n : BitVec 6) : (s.setLen n).evtCode = s.evtCode := rfl
@[simp] theorem State.setLen_stream (s : State) (n : BitVec 6) : (s.setLen n).stream = s.stream := rfl
@[simp] theorem State.setLen_heldBack (s : State) (n : BitVec 6) : (s.setLen n).heldBack = s.heldBack := rfl
@[simp] theorem State.setLen_decFrame (s : State) (n : BitVec 6) : (s.setLen n).decFrame = s.decFrame := rfl
@[simp] theorem State.setLen_inputs (s : State) (n : BitVec 6) : (s.setLen n).inputs = s.inputs := rfl
@[simp] theorem State.setLen_trace (s : State) (n : BitVec 6) : (s.setLen n).trace = s.trace := rfl
@[simp] theorem State.setLen_freeDraws (s : State) (n : BitVec 6) : (s.setLen n).freeDraws = s.freeDraws := rfl

@[simp] theorem State.setSync_syncState (s : State) (x : SyncState) : (s.setSync x).syncState = x := rfl
@[simp] theorem State.setSync_bufLen (s : State) (x : SyncState) : (s.setSync x).bufLen = s.bufLen := rfl
@[simp] theorem State.setSync_frameBuf (s : State) (x : SyncState) : (s.setSync x).frameBuf = s.frameBuf := rfl
@[simp] theorem State.setSync_latest (s : State) (x : SyncState) : (s.setSync x).latest = s.latest := rfl
@[simp] theorem State.setSync_recValid (s : State) (x : SyncState) : (s.setSync x).recValid = s.recValid := rfl
@[simp] theorem State.setSync_passOpen (s : State) (x : SyncState) : (s.setSync x).passOpen = s.passOpen := rfl
@[simp] theorem State.setSync_evtValid (s : State) (x : SyncState) : (s.setSync x).evtValid = s.evtValid := rfl
@[simp] theorem State.setSync_evtCode (s : State) (x : SyncState) : (s.setSync x).evtCode = s.evtCode := rfl
@[simp] theorem State.setSync_stream (s : State) (x : SyncState) : (s.setSync x).stream = s.stream := rfl
@[simp] theorem State.setSync_heldBack (s : State) (x : SyncState) : (s.setSync x).heldBack = s.heldBack := rfl
@[simp] theorem State.setSync_decFrame (s : State) (x : SyncState) : (s.setSync x).decFrame = s.decFrame := rfl
@[simp] theorem State.setSync_inputs (s : State) (x : SyncState) : (s.setSync x).inputs = s.inputs := rfl
@[simp] theorem State.setSync_trace (s : State) (x : SyncState) : (s.setSync x).trace = s.trace := rfl
@[simp] theorem State.setSync_freeDraws (s : State) (x : SyncState) : (s.setSync x).freeDraws = s.freeDraws := rfl

@[simp] theorem State.setPass_syncState (s : State) (v : Bool) : (s.setPass v).syncState = s.syncState := rfl
@[simp] theorem State.setPass_bufLen (s : State) (v : Bool) : (s.setPass v).bufLen = s.bufLen := rfl
@[simp] theorem State.setPass_frameBuf (s : State) (v : Bool) : (s.setPass v).frameBuf = s.frameBuf := rfl
@[simp] theorem State.setPass_latest (s : State) (v : Bool) : (s.setPass v).latest = s.latest := rfl
@[simp] theorem State.setPass_recValid (s : State) (v : Bool) : (s.setPass v).recValid = s.recValid := rfl
@[simp] theorem State.setPass_passOpen (s : State) (v : Bool) : (s.setPass v).passOpen = v := rfl
@[simp] theorem State.setPass_evtValid (s : State) (v : Bool) : (s.setPass v).evtValid = s.evtValid := rfl
@[simp] theorem State.setPass_evtCode (s : State) (v : Bool) : (s.setPass v).evtCode = s.evtCode := rfl
@[simp] theorem State.setPass_stream (s : State) (v : Bool) : (s.setPass v).stream = s.stream := rfl
@[simp] theorem State.setPass_heldBack (s : State) (v : Bool) : (s.setPass v).heldBack = 0 := rfl
@[simp] theorem State.setPass_decFrame (s : State) (v : Bool) : (s.setPass v).decFrame = s.decFrame := rfl
@[simp] theorem State.setPass_inputs (s : State) (v : Bool) : (s.setPass v).inputs = s.inputs := rfl
@[simp] theorem State.setPass_trace (s : State) (v : Bool) : (s.setPass v).trace = s.trace := rfl
@[simp] theorem State.setPass_freeDraws (s : State) (v : Bool) : (s.setPass v).freeDraws = s.freeDraws := rfl

@[simp] theorem State.toWait_syncState (s : State) : s.toWait.syncState = .wait := rfl
@[simp] theorem State.toWait_bufLen (s : State) : s.toWait.bufLen = 0 := rfl
@[simp] theorem State.toWait_frameBuf (s : State) : s.toWait.frameBuf = s.frameBuf := rfl
@[simp] theorem State.toWait_latest (s : State) : s.toWait.latest = s.latest := rfl
@[simp] theorem State.toWait_recValid (s : State) : s.toWait.recValid = s.recValid := rfl
@[simp] theorem State.toWait_passOpen (s : State) : s.toWait.passOpen = s.passOpen := rfl
@[simp] theorem State.toWait_evtValid (s : State) : s.toWait.evtValid = s.evtValid := rfl
@[simp] theorem State.toWait_evtCode (s : State) : s.toWait.evtCode = s.evtCode := rfl
@[simp] theorem State.toWait_stream (s : State) : s.toWait.stream = s.stream := rfl
@[simp] theorem State.toWait_heldBack (s : State) : s.toWait.heldBack = s.heldBack := rfl
@[simp] theorem State.toWait_decFrame (s : State) : s.toWait.decFrame = s.decFrame := rfl
@[simp] theorem State.toWait_inputs (s : State) : s.toWait.inputs = s.inputs := rfl
@[simp] theorem State.toWait_trace (s : State) : s.toWait.trace = s.trace := rfl
@[simp] theorem State.toWait_freeDraws (s : State) : s.toWait.freeDraws = s.freeDraws := rfl

@[simp] theorem State.observe_syncState (s : State) (o : Obs) : (s.observe o).syncState = s.syncState := rfl
@[simp] theorem State.observe_bufLen (s : State) (o : Obs) : (s.observe o).bufLen = s.bufLen := rfl
@[simp] theorem State.observe_frameBuf (s : State) (o : Obs) : (s.observe o).frameBuf = s.frameBuf := rfl
@[simp] theorem State.observe_latest (s : State) (o : Obs) : (s.observe o).latest = s.latest := rfl
@[simp] theorem State.observe_recValid (s : State) (o : Obs) : (s.observe o).recValid = s.recValid := rfl
@[simp] theorem State.observe_passOpen (s : State) (o : Obs) : (s.observe o).passOpen = s.passOpen := rfl
@[simp] theorem State.observe_evtValid (s : State) (o : Obs) : (s.observe o).evtValid = s.evtValid := rfl
@[simp] theorem State.observe_evtCode (s : State) (o : Obs) : (s.observe o).evtCode = s.evtCode := rfl
@[simp] theorem State.observe_stream (s : State) (o : Obs) : (s.observe o).stream = s.stream := rfl
@[simp] theorem State.observe_heldBack (s : State) (o : Obs) : (s.observe o).heldBack = s.heldBack := rfl
@[simp] theorem State.observe_decFrame (s : State) (o : Obs) : (s.observe o).decFrame = s.decFrame := rfl
@[simp] theorem State.observe_inputs (s : State) (o : Obs) : (s.observe o).inputs = s.inputs := rfl
@[simp] theorem State.observe_trace (s : State) (o : Obs) : (s.observe o).trace = s.trace ++ [o] := rfl
@[simp] theorem State.observe_freeDraws (s : State) (o : Obs) : (s.observe o).freeDraws = s.freeDraws := rfl

@[simp] theorem State.quiet_syncState (s : State) : s.quiet.syncState = s.syncState := rfl
@[simp] theorem State.quiet_bufLen (s : State) : s.quiet.bufLen = s.bufLen := rfl
@[simp] theorem State.quiet_frameBuf (s : State) : s.quiet.frameBuf = s.frameBuf := rfl
@[simp] theorem State.quiet_latest (s : State) : s.quiet.latest = s.latest := rfl
@[simp] theorem State.quiet_recValid (s : State) : s.quiet.recValid = s.recValid := rfl
@[simp] theorem State.quiet_passOpen (s : State) : s.quiet.passOpen = s.passOpen := rfl
@[simp] theorem State.quiet_evtValid (s : State) : s.quiet.evtValid = false := rfl
@[simp] theorem State.quiet_evtCode (s : State) : s.quiet.evtCode = 0 := rfl
@[simp] theorem State.quiet_stream (s : State) : s.quiet.stream = s.stream := rfl
@[simp] theorem State.quiet_heldBack (s : State) : s.quiet.heldBack = s.heldBack := rfl
@[simp] theorem State.quiet_decFrame (s : State) : s.quiet.decFrame = s.decFrame := rfl
@[simp] theorem State.quiet_inputs (s : State) : s.quiet.inputs = s.inputs := rfl
@[simp] theorem State.quiet_trace (s : State) : s.quiet.trace = s.trace := rfl
@[simp] theorem State.quiet_freeDraws (s : State) : s.quiet.freeDraws = s.freeDraws := rfl

@[simp] theorem State.emit_syncState (s : State) (e : Event) : (s.emit e).syncState = s.syncState := rfl
@[simp] theorem State.emit_bufLen (s : State) (e : Event) : (s.emit e).bufLen = s.bufLen := rfl
@[simp] theorem State.emit_frameBuf (s : State) (e : Event) : (s.emit e).frameBuf = s.frameBuf := rfl
@[simp] theorem State.emit_latest (s : State) (e : Event) : (s.emit e).latest = s.latest := rfl
@[simp] theorem State.emit_recValid (s : State) (e : Event) : (s.emit e).recValid = s.recValid := rfl
@[simp] theorem State.emit_passOpen (s : State) (e : Event) : (s.emit e).passOpen = s.passOpen := rfl
@[simp] theorem State.emit_evtValid (s : State) (e : Event) : (s.emit e).evtValid = true := rfl
@[simp] theorem State.emit_evtCode (s : State) (e : Event) : (s.emit e).evtCode = e.code := rfl
@[simp] theorem State.emit_stream (s : State) (e : Event) : (s.emit e).stream = s.stream := rfl
@[simp] theorem State.emit_heldBack (s : State) (e : Event) : (s.emit e).heldBack = s.heldBack := rfl
@[simp] theorem State.emit_decFrame (s : State) (e : Event) : (s.emit e).decFrame = s.decFrame := rfl
@[simp] theorem State.emit_inputs (s : State) (e : Event) : (s.emit e).inputs = s.inputs := rfl
@[simp] theorem State.emit_trace (s : State) (e : Event) : (s.emit e).trace = s.trace ++ [.event e] := rfl
@[simp] theorem State.emit_freeDraws (s : State) (e : Event) : (s.emit e).freeDraws = s.freeDraws := rfl

@[simp] theorem State.framingError_syncState (s : State) (e : Event) : (s.framingError e).syncState = .wait := rfl
@[simp] theorem State.framingError_bufLen (s : State) (e : Event) : (s.framingError e).bufLen = 0 := rfl
@[simp] theorem State.framingError_frameBuf (s : State) (e : Event) : (s.framingError e).frameBuf = s.frameBuf := rfl
@[simp] theorem State.framingError_latest (s : State) (e : Event) : (s.framingError e).latest = s.latest := rfl
@[simp] theorem State.framingError_recValid (s : State) (e : Event) : (s.framingError e).recValid = s.recValid := rfl
@[simp] theorem State.framingError_passOpen (s : State) (e : Event) : (s.framingError e).passOpen = s.passOpen := rfl
@[simp] theorem State.framingError_evtValid (s : State) (e : Event) : (s.framingError e).evtValid = true := rfl
@[simp] theorem State.framingError_evtCode (s : State) (e : Event) : (s.framingError e).evtCode = e.code := rfl
@[simp] theorem State.framingError_stream (s : State) (e : Event) : (s.framingError e).stream = s.stream := rfl
@[simp] theorem State.framingError_heldBack (s : State) (e : Event) : (s.framingError e).heldBack = s.heldBack := rfl
@[simp] theorem State.framingError_decFrame (s : State) (e : Event) : (s.framingError e).decFrame = s.decFrame := rfl
@[simp] theorem State.framingError_inputs (s : State) (e : Event) : (s.framingError e).inputs = s.inputs := rfl
@[simp] theorem State.framingError_trace (s : State) (e : Event) : (s.framingError e).trace = s.trace ++ [.event e] := rfl
@[simp] theorem State.framingError_freeDraws (s : State) (e : Event) : (s.framingError e).freeDraws = s.freeDraws := rfl

@[simp] theorem State.emitRecord_syncState (s : State) (r : Record) : (s.emitRecord r).syncState = .wait := rfl
@[simp] theorem State.emitRecord_bufLen (s : State) (r : Record) : (s.emitRecord r).bufLen = 0 := rfl
@[simp] theorem State.emitRecord_frameBuf (s : State) (r : Record) : (s.emitRecord r).frameBuf = s.frameBuf := rfl
@[simp] theorem State.emitRecord_latest (s : State) (r : Record) : (s.emitRecord r).latest = r := rfl
@[simp] theorem State.emitRecord_recValid (s : State) (r : Record) : (s.emitRecord r).recValid = true := rfl
@[simp] theorem State.emitRecord_passOpen (s : State) (r : Record) : (s.emitRecord r).passOpen = s.passOpen := rfl
@[simp] theorem State.emitRecord_evtValid (s : State) (r : Record) : (s.emitRecord r).evtValid = true := rfl
@[simp] theorem State.emitRecord_evtCode (s : State) (r : Record) : (s.emitRecord r).evtCode = 1 := rfl
@[simp] theorem State.emitRecord_stream (s : State) (r : Record) : (s.emitRecord r).stream = s.stream := rfl
@[simp] theorem State.emitRecord_heldBack (s : State) (r : Record) : (s.emitRecord r).heldBack = s.heldBack := rfl
@[simp] theorem State.emitRecord_decFrame (s : State) (r : Record) : (s.emitRecord r).decFrame = s.decFrame := rfl
@[simp] theorem State.emitRecord_inputs (s : State) (r : Record) : (s.emitRecord r).inputs = s.inputs := rfl
@[simp] theorem State.emitRecord_trace (s : State) (r : Record) : (s.emitRecord r).trace = s.trace ++ [.event (.record r)] := rfl
@[simp] theorem State.emitRecord_freeDraws (s : State) (r : Record) : (s.emitRecord r).freeDraws = s.freeDraws := rfl

@[simp] theorem State.forget_syncState (s : State) : s.forget.syncState = s.syncState := rfl
@[simp] theorem State.forget_bufLen (s : State) : s.forget.bufLen = s.bufLen := rfl
@[simp] theorem State.forget_frameBuf (s : State) : s.forget.frameBuf = [] := rfl
@[simp] theorem State.forget_latest (s : State) : s.forget.latest = freeRecord s.freeDraws := rfl
@[simp] theorem State.forget_recValid (s : State) : s.forget.recValid = s.recValid := rfl
@[simp] theorem State.forget_passOpen (s : State) : s.forget.passOpen = s.passOpen := rfl
@[simp] theorem State.forget_evtValid (s : State) : s.forget.evtValid = s.evtValid := rfl
@[simp] theorem State.forget_evtCode (s : State) : s.forget.evtCode = s.evtCode := rfl
@[simp] theorem State.forget_stream (s : State) : s.forget.stream = s.stream := rfl
@[simp] theorem State.forget_heldBack (s : State) : s.forget.heldBack = s.heldBack := rfl
@[simp] theorem State.forget_decFrame (s : State) : s.forget.decFrame = s.decFrame := rfl
@[simp] theorem State.forget_inputs (s : State) : s.forget.inputs = s.inputs := rfl
@[simp] theorem State.forget_trace (s : State) : s.forget.trace = s.trace := rfl
@[simp] theorem State.forget_freeDraws (s : State) : s.forget.freeDraws = s.freeDraws + 1 := rfl

@[simp] theorem State.closePass_syncState (s : State) : s.closePass.syncState = s.syncState := rfl
@[simp] theorem State.closePass_bufLen (s : State) : s.closePass.bufLen = s.bufLen := rfl
@[simp] theorem State.closePass_frameBuf (s : State) : s.closePass.frameBuf = s.frameBuf := rfl
@[simp] theorem State.closePass_latest (s : State) : s.closePass.latest = s.latest := rfl
@[simp] theorem State.closePass_recValid (s : State) : s.closePass.recValid = s.recValid := rfl
@[simp] theorem State.closePass_passOpen (s : State) : s.closePass.passOpen = false := rfl
@[simp] theorem State.closePass_evtValid (s : State) : s.closePass.evtValid = false := rfl
@[simp] theorem State.closePass_evtCode (s : State) : s.closePass.evtCode = 0 := rfl
@[simp] theorem State.closePass_stream (s : State) : s.closePass.stream = s.stream := rfl
@[simp] theorem State.closePass_heldBack (s : State) : s.closePass.heldBack = 0 := rfl
@[simp] theorem State.closePass_decFrame (s : State) : s.closePass.decFrame = s.decFrame := rfl
@[simp] theorem State.closePass_inputs (s : State) : s.closePass.inputs = s.inputs := rfl
@[simp] theorem State.closePass_trace (s : State) : s.closePass.trace = s.trace := rfl
@[simp] theorem State.closePass_freeDraws (s : State) : s.closePass.freeDraws = s.freeDraws := rfl

@[simp] theorem State.idle_syncState (s : State) : s.idle.syncState = s.syncState := rfl
@[simp] theorem State.idle_bufLen (s : State) : s.idle.bufLen = s.bufLen := rfl
@[simp] theorem State.idle_frameBuf (s : State) : s.idle.frameBuf = s.frameBuf := rfl
@[simp] theorem State.idle_latest (s : State) : s.idle.latest = s.latest := rfl
@[simp] theorem State.idle_recValid (s : State) : s.idle.recValid = s.recValid := rfl
@[simp] theorem State.idle_passOpen (s : State) : s.idle.passOpen = s.passOpen := rfl
@[simp] theorem State.idle_evtValid (s : State) : s.idle.evtValid = false := rfl
@[simp] theorem State.idle_evtCode (s : State) : s.idle.evtCode = 0 := rfl
@[simp] theorem State.idle_stream (s : State) : s.idle.stream = s.stream := rfl
@[simp] theorem State.idle_heldBack (s : State) : s.idle.heldBack = s.heldBack := rfl
@[simp] theorem State.idle_decFrame (s : State) : s.idle.decFrame = s.decFrame := rfl
@[simp] theorem State.idle_inputs (s : State) : s.idle.inputs = s.inputs := rfl
@[simp] theorem State.idle_trace (s : State) : s.idle.trace = s.trace := rfl
@[simp] theorem State.idle_freeDraws (s : State) : s.idle.freeDraws = s.freeDraws := rfl

@[simp] theorem State.push_syncState (s : State) (bs : List Byte) (late : Bool) :
    (s.push bs late).syncState = s.syncState := rfl
@[simp] theorem State.push_bufLen (s : State) (bs : List Byte) (late : Bool) :
    (s.push bs late).bufLen = s.bufLen := rfl
@[simp] theorem State.push_frameBuf (s : State) (bs : List Byte) (late : Bool) :
    (s.push bs late).frameBuf = s.frameBuf := rfl
@[simp] theorem State.push_latest (s : State) (bs : List Byte) (late : Bool) :
    (s.push bs late).latest = s.latest := rfl
@[simp] theorem State.push_recValid (s : State) (bs : List Byte) (late : Bool) :
    (s.push bs late).recValid = s.recValid := rfl
@[simp] theorem State.push_passOpen (s : State) (bs : List Byte) (late : Bool) :
    (s.push bs late).passOpen = s.passOpen := rfl
@[simp] theorem State.push_evtValid (s : State) (bs : List Byte) (late : Bool) :
    (s.push bs late).evtValid = s.evtValid := rfl
@[simp] theorem State.push_evtCode (s : State) (bs : List Byte) (late : Bool) :
    (s.push bs late).evtCode = s.evtCode := rfl
@[simp] theorem State.push_stream (s : State) (bs : List Byte) (late : Bool) :
    (s.push bs late).stream = s.stream ++ bs := rfl
@[simp] theorem State.push_heldBack (s : State) (bs : List Byte) (late : Bool) :
    (s.push bs late).heldBack = 
      if s.passOpen && (late || s.heldBack != 0) then s.heldBack + bs.length else s.heldBack := rfl
@[simp] theorem State.push_decFrame (s : State) (bs : List Byte) (late : Bool) :
    (s.push bs late).decFrame = s.decFrame := rfl
@[simp] theorem State.push_inputs (s : State) (bs : List Byte) (late : Bool) :
    (s.push bs late).inputs = s.inputs := rfl
@[simp] theorem State.push_trace (s : State) (bs : List Byte) (late : Bool) :
    (s.push bs late).trace = s.trace := rfl
@[simp] theorem State.push_freeDraws (s : State) (bs : List Byte) (late : Bool) :
    (s.push bs late).freeDraws = s.freeDraws := rfl

end Sys2Proof.Machine
end

