-- ==== Sys2Proof/Laws/Decode.lean ====
section
/-! SUPPORT. What decoding can do: the fields of a selector word, the condition in words of each row of the operation map, and
the operation each kind of state fetches. -/

namespace Sys2Proof

@[simp] theorem selSync_selectorWord (a : BitVec 1) (l : BitVec 6) (b : Byte) : selSync (selectorWord a l b) = a := by
  unfold selSync selectorWord
  apply BitVec.eq_of_getLsbD_eq
  intro i hi
  have h : i = 0 := by omega
  subst h
  simp only [BitVec.getLsbD_extractLsb', hi, decide_true, Bool.true_and]
  rw [BitVec.getLsbD_append, BitVec.getLsbD_append]
  simp

@[simp] theorem selLen_selectorWord (a : BitVec 1) (l : BitVec 6) (b : Byte) : selLen (selectorWord a l b) = l := by
  unfold selLen selectorWord
  apply BitVec.eq_of_getLsbD_eq
  intro i hi
  simp only [BitVec.getLsbD_extractLsb', hi, decide_true, Bool.true_and]
  rw [BitVec.getLsbD_append, BitVec.getLsbD_append]
  simp [hi]

@[simp] theorem selByte_selectorWord (a : BitVec 1) (l : BitVec 6) (b : Byte) : selByte (selectorWord a l b) = b := by
  unfold selByte selectorWord
  apply BitVec.eq_of_getLsbD_eq
  intro i hi
  simp only [BitVec.getLsbD_extractLsb', hi, decide_true, Bool.true_and]
  rw [BitVec.getLsbD_append]
  simp [hi]

/-- Every 15-bit word is the selector word of its fields. -/
theorem selectorWord_fields (w : BitVec 15) : selectorWord (selSync w) (selLen w) (selByte w) = w := by
  unfold selectorWord selSync selLen selByte
  ext i hi
  simp only [BitVec.getElem_append, BitVec.getElem_extractLsb']
  split
  · simp [BitVec.getLsbD_eq_getElem hi]
  · split
    · have h : 8 + (i - 8) = i := by omega
      simp [h, BitVec.getLsbD_eq_getElem hi]
    · have h : 14 + (i - 8 - 6) = i := by omega
      simp [h, BitVec.getLsbD_eq_getElem hi]

theorem selectorWord_and (a a' : BitVec 1) (l l' : BitVec 6) (b b' : Byte) :
    selectorWord a l b &&& selectorWord a' l' b' = selectorWord (a &&& a') (l &&& l') (b &&& b') := by
  unfold selectorWord
  rw [BitVec.and_append, BitVec.and_append]

theorem selectorWord_inj {a a' : BitVec 1} {l l' : BitVec 6} {b b' : Byte} :
    selectorWord a l b = selectorWord a' l' b' ↔ a = a' ∧ l = l' ∧ b = b' := by
  constructor
  · intro h
    exact ⟨by simpa using congrArg selSync h, by simpa using congrArg selLen h, by simpa using congrArg selByte h⟩
  · rintro ⟨rfl, rfl, rfl⟩
    rfl

/-- A mask and a pattern given by their fields hit a selector word field by field. -/
theorem SelRow.hits_fields (op : SelOp) (a a' am : BitVec 1) (l l' lm : BitVec 6) (b b' bm : Byte) :
    SelRow.hits ⟨op, selectorWord am lm bm, selectorWord a' l' b'⟩ (selectorWord a l b) = true ↔
      a &&& am = a' ∧ l &&& lm = l' ∧ b &&& bm = b' := by
  simp only [SelRow.hits, selectorWord_and, beq_iff_eq, selectorWord_inj]

theorem hits_start (a : BitVec 1) (l : BitVec 6) (b : Byte) :
    SelRow.hits ⟨.start, 0x7FFF, 0x0076⟩ (selectorWord a l b) = true ↔ a = 0 ∧ l = 0 ∧ b = 0x76 := by
  have h := SelRow.hits_fields .start a 0 1 l 0 0x3F b 0x76 0xFF
  rw [show selectorWord 1 0x3F 0xFF = 0x7FFF from by decide, show selectorWord 0 0 0x76 = 0x0076 from by decide] at h
  rw [h, show a &&& 1 = a from BitVec.and_allOnes, show l &&& 0x3F = l from BitVec.and_allOnes,
    show b &&& 0xFF = b from BitVec.and_allOnes]

theorem hits_len (op : SelOp) (m : BitVec 15) (a' : BitVec 1) (l' : BitVec 6) (hm : selectorWord a' l' 0 = m)
    (a : BitVec 1) (l : BitVec 6) (b : Byte) :
    SelRow.hits ⟨op, 0x7F00, m⟩ (selectorWord a l b) = true ↔ a = a' ∧ l = l' := by
  have h := SelRow.hits_fields op a a' 1 l l' 0x3F b 0 0
  rw [show selectorWord 1 0x3F 0 = 0x7F00 from by decide, hm] at h
  rw [h, show a &&& 1 = a from BitVec.and_allOnes, show l &&& 0x3F = l from BitVec.and_allOnes,
    show b &&& 0 = 0 from BitVec.and_zero]
  simp

theorem hits_sync (op : SelOp) (m : BitVec 15) (a' : BitVec 1) (hm : selectorWord a' 0 0 = m)
    (a : BitVec 1) (l : BitVec 6) (b : Byte) :
    SelRow.hits ⟨op, 0x4000, m⟩ (selectorWord a l b) = true ↔ a = a' := by
  have h := SelRow.hits_fields op a a' 1 l 0 0 b 0 0
  rw [show selectorWord 1 0 0 = 0x4000 from by decide, hm] at h
  rw [h, show a &&& 1 = a from BitVec.and_allOnes, show l &&& 0 = 0 from BitVec.and_zero,
    show b &&& 0 = 0 from BitVec.and_zero]
  simp

theorem hits_high (a : BitVec 1) (l : BitVec 6) (b : Byte) :
    SelRow.hits ⟨.reservedAhi, 0x7000, 0x7000⟩ (selectorWord a l b) = true ↔ a = 1 ∧ 48 ≤ l.toNat := by
  have h := SelRow.hits_fields .reservedAhi a 1 1 l 0x30 0x30 b 0 0
  rw [show selectorWord 1 0x30 0 = 0x7000 from by decide] at h
  rw [h, show a &&& 1 = a from BitVec.and_allOnes, show b &&& 0 = 0 from BitVec.and_zero]
  have : ∀ l : BitVec 6, l &&& 0x30 = 0x30 ↔ 48 ≤ l.toNat := by decide
  rw [this]
  simp

/-- The case of a byte step in the words of R65, from the fields of the selector word. -/
def caseOf (a : BitVec 1) (l : BitVec 6) (b : Byte) : SelOp :=
  if a = 0#1 then
    if l = 0#6 then (if b = 0x76#8 then .start else .discard) else .reservedW
  else if l = 0#6 then .reservedA0
  else if 48 ≤ l.toNat then .reservedAhi
  else if l = 23#6 then .cmdCheck
  else if l = 47#6 then .frameCheck
  else .append

theorem bit_cases (a : BitVec 1) : a = 0#1 ∨ a = 1#1 := by revert a; decide

/-- Some row always matches, and the first that does is the case in words. -/
theorem selectRow_eq (a : BitVec 1) (l : BitVec 6) (b : Byte) :
    selectRow (selectorWord a l b) = some (caseOf a l b) := by
  have h0 := Bool.eq_iff_iff.mpr ((hits_start a l b).trans decide_eq_true_iff.symm)
  have h1 := Bool.eq_iff_iff.mpr ((hits_len .discard 0x0000 0 0 (by decide) a l b).trans decide_eq_true_iff.symm)
  have h2 := Bool.eq_iff_iff.mpr ((hits_sync .reservedW 0x0000 0 (by decide) a l b).trans decide_eq_true_iff.symm)
  have h3 := Bool.eq_iff_iff.mpr ((hits_len .reservedA0 0x4000 1 0 (by decide) a l b).trans decide_eq_true_iff.symm)
  have h4 := Bool.eq_iff_iff.mpr ((hits_high a l b).trans decide_eq_true_iff.symm)
  have h5 := Bool.eq_iff_iff.mpr ((hits_len .cmdCheck 0x5700 1 23 (by decide) a l b).trans decide_eq_true_iff.symm)
  have h6 := Bool.eq_iff_iff.mpr ((hits_len .frameCheck 0x6F00 1 47 (by decide) a l b).trans decide_eq_true_iff.symm)
  have h7 := Bool.eq_iff_iff.mpr ((hits_sync .append 0x4000 1 (by decide) a l b).trans decide_eq_true_iff.symm)
  simp only [selectRow, selectorRows, List.find?_cons, List.find?_nil, h0, h1, h2, h3, h4, h5, h6, h7]
  clear h0 h1 h2 h3 h4 h5 h6 h7
  unfold caseOf
  rcases bit_cases a with rfl | rfl
  · by_cases hl : l = 0#6 <;> by_cases hb : b = 0x76#8 <;> simp [hl, hb]
  · by_cases hl : l = 0#6
    · simp [hl]
    by_cases hh : 48 ≤ l.toNat
    · simp [hl, hh]
    by_cases h23 : l = 23#6
    · simp [h23]
    by_cases h47 : l = 47#6
    · simp [h47]
    simp [hl, hh, h23, h47]

/-- What the selector word of some fields decodes to. -/
theorem decodeSelector_eq (a : BitVec 1) (l : BitVec 6) (b : Byte) :
    decodeSelector (selectorWord a l b) = .ok ((caseOf a l b).instr l b) := by
  simp [decodeSelector, selectRow_eq]

/-- The number that carries a selector word decodes as the word. -/
theorem decodeWord_selector (w : BitVec 15) : decodeWord .selector w.toNat = decodeSelector w := by
  simp [decodeWord, w.isLt]

namespace Machine

/-- The operation fetched for a byte at the head of STREAM. -/
theorem State.byteOp_cons {s : State} {b : Byte} {q : List Byte} (h : s.stream = b :: q) :
    s.byteOp = some ((caseOf s.syncState.bit s.bufLen b).instr s.bufLen b) := by
  simp [State.byteOp, h, State.selector, decodeSelector_eq, Except.toOption]

theorem State.byteOp_nil {s : State} (h : s.stream = []) : s.byteOp = none := by
  simp [State.byteOp, h]

/-- An operation is fetched only from a byte. -/
theorem State.byteOp_some {s : State} {i : Instr} (h : s.byteOp = some i) :
    ∃ b q, s.stream = b :: q ∧ i = (caseOf s.syncState.bit s.bufLen b).instr s.bufLen b := by
  cases hs : s.stream with
  | nil => rw [State.byteOp_nil hs] at h; cases h
  | cons b q =>
    rw [State.byteOp_cons hs] at h
    exact ⟨b, q, rfl, (Option.some.inj h).symm⟩

@[simp] theorem SyncState.bit_eq_zero (x : SyncState) : x.bit = 0 ↔ x = .wait := by cases x <;> decide
@[simp] theorem SyncState.bit_eq_one (x : SyncState) : x.bit = 1 ↔ x = .acc := by cases x <;> decide
@[simp] theorem SyncState.ofBit_bit (x : SyncState) : SyncState.ofBit x.bit = x := by cases x <;> rfl

end Machine

end Sys2Proof
end

