-- ==== Sys2Proof/Laws/Memory.lean ====
section
/-! SUPPORT. The laws of FRAME_BUF: read after write, the canonical form, and what the accessors can answer. -/

namespace Sys2Proof.Machine

@[simp] theorem Memory.read_nil (a : Nat) : Memory.read [] a = none := rfl

theorem Memory.read_write_same (m : Memory) (a : Nat) (v : Byte) :
    Memory.read (Memory.write m a v) a = some v := by
  induction m with
  | nil => simp [Memory.write, Memory.read]
  | cons c m ih =>
    unfold Memory.write
    split
    · simp [Memory.read]
    · split
      · simp [Memory.read]
      · rename_i h1 h2
        simp [Memory.read, ih, Ne.symm h2]

theorem Memory.read_write_other (m : Memory) {a b : Nat} (v : Byte) (h : b ≠ a) :
    Memory.read (Memory.write m a v) b = Memory.read m b := by
  induction m with
  | nil => simp [Memory.write, Memory.read, Ne.symm h]
  | cons c m ih =>
    unfold Memory.write
    split
    · simp [Memory.read, Ne.symm h]
    · split
      · rename_i h1 h2
        simp [Memory.read, Ne.symm h, ← h2]
      · simp [Memory.read, ih]

/-- One read after one write, both cases. -/
theorem Memory.read_write (m : Memory) (a b : Nat) (v : Byte) :
    Memory.read (Memory.write m a v) b = if b = a then some v else Memory.read m b := by
  split
  · next h => rw [h, Memory.read_write_same]
  · next h => exact Memory.read_write_other m v h

theorem Memory.risesFrom_weaken {a b : Nat} (h : b ≤ a) (m : Memory) (hm : Memory.risesFrom a m = true) :
    Memory.risesFrom b m = true := by
  cases m with
  | nil => rfl
  | cons c m =>
    simp only [Memory.risesFrom, Bool.and_eq_true, decide_eq_true_eq] at hm ⊢
    exact ⟨⟨by omega, hm.1.2⟩, hm.2⟩

theorem Memory.write_risesFrom (m : Memory) (k a : Nat) (v : Byte) (hk : k ≤ a) (ha : a < Config.frameLen)
    (hm : Memory.risesFrom k m = true) : Memory.risesFrom k (Memory.write m a v) = true := by
  induction m generalizing k with
  | nil => simp [Memory.write, Memory.risesFrom, hk, ha]
  | cons c m ih =>
    simp only [Memory.risesFrom, Bool.and_eq_true, decide_eq_true_eq] at hm
    unfold Memory.write
    split
    · next h =>
      simp only [Memory.risesFrom, Bool.and_eq_true, decide_eq_true_eq]
      exact ⟨⟨hk, ha⟩, ⟨by omega, hm.1.2⟩, hm.2⟩
    · split
      · next h1 h2 =>
        subst h2
        simp only [Memory.risesFrom, Bool.and_eq_true, decide_eq_true_eq]
        exact hm
      · next h1 h2 =>
        simp only [Memory.risesFrom, Bool.and_eq_true, decide_eq_true_eq]
        exact ⟨hm.1, ih (c.1 + 1) (by omega) hm.2⟩

/-- The one memory operation that writes keeps the canonical form. -/
theorem Memory.write_wf (m : Memory) (a : Nat) (v : Byte) (ha : a < Config.frameLen) (hm : Memory.wf m = true) :
    Memory.wf (Memory.write m a v) = true :=
  Memory.write_risesFrom m 0 a v (Nat.zero_le a) ha hm

@[simp] theorem Memory.wf_nil : Memory.wf [] = true := rfl

/-- Reset memory has the canonical form. -/
theorem reset_memory_wf : Memory.wf State.reset.frameBuf = true := rfl

/-- Placing a word keeps the canonical form. -/
theorem fillCells_wf (m : Memory) (n : Nat) (hn : n ≤ Config.frameLen) (hm : Memory.wf m = true) :
    Memory.wf (fillCells m n) = true := by
  induction n generalizing m with
  | zero => exact hm
  | succ n ih =>
    unfold fillCells
    split
    · exact ih m (by omega) hm
    · exact ih _ (by omega) (Memory.write_wf m n _ (by omega) hm)

/-- What a read of a cell can answer. -/
theorem readCell_ok {s : State} {i : Nat} {b : Byte} :
    s.readCell i = .ok b ↔ i < 48 ∧ Memory.read s.frameBuf i = some b := by
  simp only [State.readCell, Config.frameLen]
  by_cases h : i < 48
  · cases hm : Memory.read s.frameBuf i <;> simp [h]
  · simp only [h, if_false, false_and, reduceCtorEq]

/-- What a write of a cell can answer. -/
theorem writeCell_ok {s t : State} {i : Nat} {b : Byte} :
    s.writeCell i b = .ok t ↔ i < 48 ∧ t = { s with frameBuf := Memory.write s.frameBuf i b } := by
  simp only [State.writeCell, Config.frameLen]
  by_cases h : i < 48
  · simp only [h, if_true, true_and, Except.ok.injEq, eq_comm]
  · simp only [h, if_false, false_and, reduceCtorEq]

/-- A write inside FRAME_BUF succeeds. -/
theorem writeCell_of_lt (s : State) {i : Nat} (b : Byte) (h : i < 48) :
    s.writeCell i b = .ok { s with frameBuf := Memory.write s.frameBuf i b } :=
  writeCell_ok.mpr ⟨h, rfl⟩

/-- A block read answers the cells' bytes, in offset order. -/
theorem readCells_ok {s : State} {n : Nat} {p : Bytes n} (h : s.readCells n = .ok p) :
    ∀ i, (hi : i < n) → i < 48 ∧ Memory.read s.frameBuf i = some (p.1[i]'(by rw [p.2]; exact hi)) := by
  induction n with
  | zero => intro i hi; omega
  | succ n ih =>
    unfold State.readCells at h
    split at h
    · cases h
    · next q hq =>
      split at h
      · cases h
      · next b hb =>
        injection h with h
        subst h
        intro i hi
        by_cases hin : i < n
        · have := ih hq i hin
          simpa [List.getElem_append, q.2, hin] using this
        · have hi' : i = n := by omega
          subst hi'
          have := readCell_ok.mp hb
          simpa [List.getElem_append, q.2] using this

/-- A block read of cells that all hold a value succeeds. -/
theorem readCells_of_live (s : State) (n : Nat) (hn : n ≤ 48)
    (h : ∀ i, i < n → (Memory.read s.frameBuf i).isSome = true) : ∃ p, s.readCells n = .ok p := by
  induction n with
  | zero => exact ⟨_, rfl⟩
  | succ n ih =>
    obtain ⟨q, hq⟩ := ih (by omega) fun i hi => h i (by omega)
    obtain ⟨b, hb⟩ := Option.isSome_iff_exists.mp (h n (by omega))
    have hr : s.readCell n = .ok b := readCell_ok.mpr ⟨by omega, hb⟩
    unfold State.readCells
    simp only [hq, hr]
    exact ⟨_, rfl⟩

/-- The assembled frame is the 47 cells and then the byte. -/
theorem assembleFrame_ok {s : State} {b : Byte} {F : Frame} (h : s.assembleFrame b = .ok F) (i : Fin 48) :
    if i.1 < 47 then Memory.read s.frameBuf i = some (F.at i) else F.at i = b := by
  unfold State.assembleFrame at h
  split at h
  · cases h
  · next p hp =>
    injection h with h
    subst h
    by_cases hi : i.1 < 47
    · have := (readCells_ok hp i hi).2
      simpa [Frame.at, hi, List.getElem_append, p.2] using this
    · simp [Frame.at, hi, List.getElem_append, p.2]

theorem assembleFrame_of_live (s : State) (b : Byte)
    (h : ∀ i, i < 47 → (Memory.read s.frameBuf i).isSome = true) : ∃ F, s.assembleFrame b = .ok F := by
  obtain ⟨p, hp⟩ := readCells_of_live s 47 (by omega) h
  unfold State.assembleFrame
  simp only [hp]
  exact ⟨_, rfl⟩

end Sys2Proof.Machine
end

