-- ==== Sys2Proof/Laws/Ops.lean ====
section
/-! SUPPORT. For each shared operation, one lemma that says once everything it can do: if it answers a next state, then one of
these cases holds. The provers cite these instead of unfolding the operations. -/

namespace Sys2Proof.Machine

theorem whenSelected_next {s t : State} {i : Instr} {out : Out} :
    s.whenSelected i out = .next t ↔ s.byteOp = some i ∧ out = .next t := by
  unfold State.whenSelected
  split <;> simp_all

theorem whenSelected_fault {s : State} {i : Instr} {out : Out} {f : Fault} :
    s.whenSelected i out = .fault f ↔ s.byteOp = some i ∧ out = .fault f := by
  unfold State.whenSelected
  split <;> simp_all

/-- In the state that selects the operation, it has its meaning. -/
theorem whenSelected_of {s : State} {i : Instr} (out : Out) (h : s.byteOp = some i) : s.whenSelected i out = out := by
  simp [State.whenSelected, h]

theorem answer_next {r : Except Fault State} {t : State} : answer r = .next t ↔ r = .ok t := by
  cases r <;> simp [answer]

theorem answer_fault {r : Except Fault State} {f : Fault} : answer r = .fault f ↔ r = .error f := by
  cases r <;> simp [answer]

/-- A bind of accessors succeeds when both parts do. -/
theorem bind_ok {α β : Type} {x : Except Fault α} {f : α → Except Fault β} {r : β} :
    (x >>= f) = .ok r ↔ ∃ a, x = .ok a ∧ f a = .ok r := by
  cases x <;> simp [bind, Except.bind]

theorem execSyncStart_next {s t : State} (h : execSyncStart s = .next t) :
    s.byteOp = some .syncStart ∧
      t = { s with
        stream := s.stream.tail, frameBuf := Memory.write s.frameBuf 0 Config.startMarker, bufLen := 1,
        syncState := .acc, evtValid := false, evtCode := 0 } := by
  obtain ⟨hop, h⟩ := whenSelected_next.mp h
  obtain ⟨u, hu, h⟩ := bind_ok.mp (answer_next.mp h)
  obtain ⟨_, rfl⟩ := writeCell_ok.mp hu
  injection h with h
  exact ⟨hop, h.symm⟩

theorem execSyncDiscard_next {s t : State} {b : Byte} (h : execSyncDiscard b s = .next t) :
    s.byteOp = some (.syncDiscard b) ∧
      t = { s with stream := s.stream.tail, evtValid := false, evtCode := 0 } := by
  obtain ⟨hop, h⟩ := whenSelected_next.mp h
  injection h with h
  exact ⟨hop, h.symm⟩

theorem execSyncAppend_next {s t : State} {len : BitVec 6} {b : Byte} (h : execSyncAppend len b s = .next t) :
    s.byteOp = some (.syncAppend len b) ∧
      t = { s with
        stream := s.stream.tail, frameBuf := Memory.write s.frameBuf s.bufLen.toNat b, bufLen := s.bufLen + 1,
        evtValid := false, evtCode := 0 } := by
  obtain ⟨hop, h⟩ := whenSelected_next.mp h
  obtain ⟨u, hu, h⟩ := bind_ok.mp (answer_next.mp h)
  obtain ⟨_, rfl⟩ := writeCell_ok.mp hu
  injection h with h
  exact ⟨hop, h.symm⟩

/-- SYNC_CMD_CHECK answers with FERR_CMD, or goes on to BUF_LEN 24. -/
theorem execSyncCmdCheck_next {s t : State} {b : Byte} (h : execSyncCmdCheck b s = .next t) :
    s.byteOp = some (.syncCmdCheck b) ∧ ∃ v, Memory.read s.frameBuf 21 = some v ∧
      ((v = 0 ∧ t = { s with
          stream := s.stream.tail, frameBuf := Memory.write s.frameBuf 23 b, bufLen := 0, syncState := .wait,
          passOpen := false, heldBack := 0, evtValid := true, evtCode := 2, trace := s.trace ++ [.event .ferrCmd] }) ∨
        (v ≠ 0 ∧ t = { s with
          stream := s.stream.tail, frameBuf := Memory.write s.frameBuf 23 b, bufLen := 24,
          evtValid := false, evtCode := 0 })) := by
  obtain ⟨hop, h⟩ := whenSelected_next.mp h
  obtain ⟨v, hv, h⟩ := bind_ok.mp (answer_next.mp h)
  obtain ⟨u, hu, h⟩ := bind_ok.mp h
  obtain ⟨_, rfl⟩ := writeCell_ok.mp hu
  injection h with h
  refine ⟨hop, v, (readCell_ok.mp hv).2, ?_⟩
  by_cases h0 : v = 0
  · refine .inl ⟨h0, ?_⟩
    rw [← h, if_pos (by simp [cmdMarkerBad, Config.cmdEndBad, h0])]
    rfl
  · refine .inr ⟨h0, ?_⟩
    rw [← h, if_neg (by simpa [cmdMarkerBad, Config.cmdEndBad] using h0)]
    rfl

/-- SYNC_FRAME_CHECK answers with RECORD or with FERR_RESP. -/
theorem execSyncFrameCheck_next {s t : State} {b : Byte} (h : execSyncFrameCheck b s = .next t) :
    s.byteOp = some (.syncFrameCheck b) ∧ ∃ F : Frame, s.assembleFrame b = .ok F ∧
      ((causeMask (F.at 24) (F.at 45) = 0 ∧ t = { s with
          stream := s.stream.tail, frameBuf := Memory.write s.frameBuf 47 b, bufLen := 0, syncState := .wait,
          latest := decodeRecord F, recValid := true, evtValid := true, evtCode := 1,
          trace := s.trace ++ [.event (.record (decodeRecord F))] }) ∨
        (causeMask (F.at 24) (F.at 45) ≠ 0 ∧ t = { s with
          stream := s.stream.tail, frameBuf := Memory.write s.frameBuf 47 b, bufLen := 0, syncState := .wait,
          evtValid := true, evtCode := (Event.ferrResp (causeMask (F.at 24) (F.at 45))).code,
          trace := s.trace ++ [.event (.ferrResp (causeMask (F.at 24) (F.at 45)))] })) := by
  obtain ⟨hop, h⟩ := whenSelected_next.mp h
  obtain ⟨F, hF, h⟩ := bind_ok.mp (answer_next.mp h)
  obtain ⟨u, hu, h⟩ := bind_ok.mp h
  obtain ⟨_, rfl⟩ := writeCell_ok.mp hu
  injection h with h
  refine ⟨hop, F, hF, ?_⟩
  by_cases h0 : causeMask (F.at 24) (F.at 45) = 0
  · refine .inl ⟨h0, ?_⟩
    rw [← h, if_pos h0]
    rfl
  · refine .inr ⟨h0, ?_⟩
    rw [← h, if_neg h0]
    rfl

/-- What the strobes of an edge name. -/
theorem decodeStrobe_cases (hc : BitVec 2) :
    (hc = 0 ∧ decodeStrobe hc = .error .noStrobe) ∨ (hc = 1 ∧ decodeStrobe hc = .ok .feed) ∨
      (hc = 2 ∧ decodeStrobe hc = .ok (.reset false)) ∨ (hc = 3 ∧ decodeStrobe hc = .ok (.reset true)) := by
  have h : hc = 0 ∨ hc = 1 ∨ hc = 2 ∨ hc = 3 := by revert hc; decide
  rcases h with rfl | rfl | rfl | rfl
  · exact .inl ⟨rfl, rfl⟩
  · exact .inr (.inl ⟨rfl, rfl⟩)
  · exact .inr (.inr (.inl ⟨rfl, rfl⟩))
  · exact .inr (.inr (.inr ⟨rfl, rfl⟩))

/-- in_valid is 1 exactly when STREAM has more bytes than are held back. -/
theorem inValid_iff {s : State} : s.inValid = true ↔ s.heldBack < s.stream.length := by simp [State.inValid]

/-- An empty STREAM has no byte for the block. -/
theorem inValid_nil {s : State} (h : s.stream = []) : s.inValid = false := by simp [State.inValid, h]

/-- With no byte held back, a non-empty STREAM has a byte for the block. -/
theorem inValid_cons {s : State} {b : Byte} {q : List Byte} (h : s.stream = b :: q) (h0 : s.heldBack = 0) :
    s.inValid = true := by simp [State.inValid, h, h0]

/-- What in_data holds: nothing while in_valid is 0, else the head of STREAM. -/
theorem inData_cases (s : State) :
    (s.inValid = false ∧ s.inData = none) ∨ (s.inValid = true ∧ ∃ b q, s.stream = b :: q ∧ s.inData = some b) := by
  cases hv : s.inValid with
  | false => exact .inl ⟨rfl, by simp [State.inData, hv]⟩
  | true =>
    cases h : s.stream with
    | nil => rw [inValid_nil h] at hv; cases hv
    | cons b q => exact .inr ⟨rfl, b, q, rfl, by simp [State.inData, hv, h]⟩

/-- The byte move of a state: the end of the pass, or the operation the selector word selects. -/
theorem byteMove_eq (s : State) :
    (s.inValid = false ∧ s.byteMove = .close) ∨
      (s.inValid = true ∧ ∃ b q, s.stream = b :: q ∧
        s.byteMove = .run ((caseOf s.syncState.bit s.bufLen b).instr s.bufLen b)) := by
  rcases inData_cases s with ⟨hv, hd⟩ | ⟨hv, b, q, hs, hd⟩
  · exact .inl ⟨hv, by simp [State.byteMove, hd]⟩
  · exact .inr ⟨hv, b, q, hs, by simp [State.byteMove, hd, State.selector, decodeSelector_eq]⟩

/-- Everything a rising edge can do (R131, R133): RESET; with a closed pass, FEED or nothing; with an open pass, its end or
the selected byte-step operation. -/
theorem edge_cases (s : State) (hc : BitVec 2) :
    (∃ f, (hc = 2 ∨ hc = 3) ∧ s.edge hc = exec (.reset f) s) ∨
      (hc = 1 ∧ s.passOpen = false ∧ s.edge hc = exec .feed s) ∨
      (hc = 0 ∧ s.passOpen = false ∧ s.edge hc = .next s.idle) ∨
      ((hc = 0 ∨ hc = 1) ∧ s.passOpen = true ∧ s.inValid = false ∧ s.edge hc = .next s.closePass) ∨
      ((hc = 0 ∨ hc = 1) ∧ s.passOpen = true ∧ s.inValid = true ∧ ∃ b q, s.stream = b :: q ∧
        s.byteOp = some ((caseOf s.syncState.bit s.bufLen b).instr s.bufLen b) ∧
        s.edge hc = exec ((caseOf s.syncState.bit s.bufLen b).instr s.bufLen b) s) := by
  rcases decodeStrobe_cases hc with ⟨h, hd⟩ | ⟨h, hd⟩ | ⟨h, hd⟩ | ⟨h, hd⟩
  · cases hp : s.passOpen
    · exact .inr (.inr (.inl ⟨h, rfl, by simp [State.edge, State.edgeMove, hd, hp, State.doMove]⟩))
    · rcases byteMove_eq s with ⟨hs, hm⟩ | ⟨hv, b, q, hs, hm⟩
      · exact .inr (.inr (.inr (.inl ⟨.inl h, rfl, hs,
          by simp [State.edge, State.edgeMove, hd, hp, hm, State.doMove]⟩)))
      · exact .inr (.inr (.inr (.inr ⟨.inl h, rfl, hv, b, q, hs, State.byteOp_cons hs,
          by simp [State.edge, State.edgeMove, hd, hp, hm, State.doMove]⟩)))
  · cases hp : s.passOpen
    · exact .inr (.inl ⟨h, rfl, by simp [State.edge, State.edgeMove, hd, hp, State.doMove]⟩)
    · rcases byteMove_eq s with ⟨hs, hm⟩ | ⟨hv, b, q, hs, hm⟩
      · exact .inr (.inr (.inr (.inl ⟨.inr h, rfl, hs,
          by simp [State.edge, State.edgeMove, hd, hp, hm, State.doMove]⟩)))
      · exact .inr (.inr (.inr (.inr ⟨.inr h, rfl, hv, b, q, hs, State.byteOp_cons hs,
          by simp [State.edge, State.edgeMove, hd, hp, hm, State.doMove]⟩)))
  · exact .inl ⟨false, .inl h, by simp [State.edge, State.edgeMove, hd, State.doMove]⟩
  · exact .inl ⟨true, .inr h, by simp [State.edge, State.edgeMove, hd, State.doMove]⟩

/-- A byte step on the head of STREAM is the meaning of the operation that the state selects. -/
theorem stepByte_eq (s : State) (b : Byte) :
    s.stepByte b = exec ((caseOf s.syncState.bit s.bufLen b).instr s.bufLen b) { s with stream := b :: s.stream } := by
  simp [State.stepByte, State.selector, decodeSelector_eq]

/-- A byte step answers a next state only through one of the five operations that have an effect. -/
theorem exec_byteOp_next {s t : State} {b : Byte}
    (h : exec ((caseOf s.syncState.bit s.bufLen b).instr s.bufLen b) s = .next t) :
    (s.syncState = .wait ∧ s.bufLen = 0 ∧ b = 0x76 ∧ execSyncStart s = .next t) ∨
      (s.syncState = .wait ∧ s.bufLen = 0 ∧ b ≠ 0x76 ∧ execSyncDiscard b s = .next t) ∨
      (s.syncState = .acc ∧ s.bufLen = 23 ∧ execSyncCmdCheck b s = .next t) ∨
      (s.syncState = .acc ∧ s.bufLen = 47 ∧ execSyncFrameCheck b s = .next t) ∨
      (s.syncState = .acc ∧ isAppendLen s.bufLen = true ∧ execSyncAppend s.bufLen b s = .next t) := by
  have hlen : ∀ l : BitVec 6, l ≠ 0#6 → ¬ 48 ≤ l.toNat → l ≠ 23#6 → l ≠ 47#6 → isAppendLen l = true := by decide
  cases hw : s.syncState <;> rw [hw] at h <;> unfold caseOf at h
  · rw [if_pos (show SyncState.wait.bit = 0#1 from rfl)] at h
    by_cases hl : s.bufLen = 0#6
    · rw [if_pos hl] at h
      by_cases hb : b = 0x76#8
      · rw [if_pos hb] at h
        exact .inl ⟨rfl, hl, hb, h⟩
      · rw [if_neg hb] at h
        exact .inr (.inl ⟨rfl, hl, hb, h⟩)
    · rw [if_neg hl] at h
      cases h
  · rw [if_neg (show ¬ SyncState.acc.bit = 0#1 by decide)] at h
    by_cases hl : s.bufLen = 0#6
    · rw [if_pos hl] at h
      cases h
    rw [if_neg hl] at h
    by_cases hh : 48 ≤ s.bufLen.toNat
    · rw [if_pos hh] at h
      cases h
    rw [if_neg hh] at h
    by_cases h23 : s.bufLen = 23#6
    · rw [if_pos h23] at h
      exact .inr (.inr (.inl ⟨rfl, h23, h⟩))
    rw [if_neg h23] at h
    by_cases h47 : s.bufLen = 47#6
    · rw [if_pos h47] at h
      exact .inr (.inr (.inr (.inl ⟨rfl, h47, h⟩)))
    rw [if_neg h47] at h
    exact .inr (.inr (.inr (.inr ⟨rfl, hlen _ hl hh h23 h47, h⟩)))

/-! What the next action makes a step do. -/

theorem step_no_action {s : State} (h : s.inputs = []) : step s = s.edge 0 := by simp only [step, State.act, h]

theorem step_edge {s : State} {hc : BitVec 2} {rest : List Input} (h : s.inputs = .edge hc :: rest) :
    step s = { s with inputs := rest }.edge hc := by simp only [step, State.act, h]

theorem step_await_open {s : State} {rest : List Input} (h : s.inputs = .await :: rest) (hp : s.passOpen = true) :
    step s = s.edge 0 := by simp only [step, State.act, h, if_pos hp]

theorem step_drain_open {s : State} {rest : List Input} (h : s.inputs = .drain :: rest) (hp : s.passOpen = true) :
    step s = s.edge 0 := by simp only [step, State.act, h, if_pos hp]

theorem step_push {s : State} {bs : List Byte} {rest : List Input} (h : s.inputs = .push bs :: rest) :
    step s = .next ({ s with inputs := rest }.push bs false) := by simp only [step, State.act, h]

theorem step_pushLate {s : State} {bs : List Byte} {rest : List Input} (h : s.inputs = .pushLate bs :: rest) :
    step s = .next ({ s with inputs := rest }.push bs true) := by simp only [step, State.act, h]

/-- With a pass open and no byte available to it, an edge without rst ends the pass (R133). -/
theorem edge_without_byte {s : State} {hc : BitVec 2} (hb : hc.getLsbD 1 = false) (hp : s.passOpen = true)
    (hv : s.inValid = false) : s.edge hc = .next s.closePass := by
  rcases edge_cases s hc with ⟨f, h | h, _⟩ | ⟨_, h, _⟩ | ⟨_, h, _⟩ | ⟨_, _, _, h⟩ | ⟨_, _, h, _⟩
  · simp [h] at hb
  · simp [h] at hb
  · simp [hp] at h
  · simp [hp] at h
  · exact h
  · simp [hv] at h

/-- With a pass open and a byte available to it, an edge without rst runs the operation the selector word selects (R81). -/
theorem edge_with_byte {s : State} {hc : BitVec 2} (hb : hc.getLsbD 1 = false) (hp : s.passOpen = true)
    (hv : s.inValid = true) : ∃ b q, s.stream = b :: q ∧
      s.edge hc = exec ((caseOf s.syncState.bit s.bufLen b).instr s.bufLen b) s := by
  rcases edge_cases s hc with ⟨f, h | h, _⟩ | ⟨_, h, _⟩ | ⟨_, h, _⟩ | ⟨_, _, h, _⟩ | ⟨_, _, _, b, q, hs, _, h⟩
  · simp [h] at hb
  · simp [h] at hb
  · simp [hp] at h
  · simp [hp] at h
  · simp [hv] at h
  · exact ⟨b, q, hs, h⟩

/-- Everything a step can do: a rising edge, with at most the head of `inputs` gone; an action of the environment that answers
a next state in which the block is as before; or a stop of such an action. -/
theorem step_cases (s : State) :
    (∃ hc ins, step s = { s with inputs := ins }.edge hc) ∨
      (∃ t, step s = .next t ∧
        t = { s with
          inputs := t.inputs, stream := t.stream, heldBack := t.heldBack, decFrame := t.decFrame, trace := t.trace } ∧
        ((t.stream = s.stream ∧ t.heldBack = s.heldBack) ∨
          ∃ bs late, s.inputs = (if late then .pushLate bs else .push bs) :: t.inputs ∧
            t.stream = (s.push bs late).stream ∧ t.heldBack = (s.push bs late).heldBack) ∧
        (t.trace = s.trace ∨ ∃ o, t.trace = s.trace ++ [o] ∧ ∀ e, o = .event e → ∃ n, e = .lenErr n)) ∨
      (∃ f rest, s.inputs = .readField f :: rest ∧ s.recValid = false ∧ step s = .fault (.recordNotValid f)) ∨
      (∃ w rest, s.inputs = .decLen w :: rest ∧ 64 ≤ w ∧ step s = .refused (.undecodable .lengthTooWide)) := by
  cases hin : s.inputs with
  | nil => exact .inl ⟨0, s.inputs, show s.act = s.edge 0 by simp only [State.act, hin]⟩
  | cons a rest =>
    cases a with
    | edge hc => exact .inl ⟨hc, rest, by simp only [step, State.act, hin]⟩
    | await =>
      by_cases hp : s.passOpen = true
      · exact .inl ⟨0, s.inputs, show s.act = s.edge 0 by simp only [State.act, hin, if_pos hp]⟩
      · refine .inr (.inl ⟨{ s with inputs := rest }, ?_, rfl, .inl ⟨rfl, rfl⟩, .inl rfl⟩)
        simp only [step, State.act, hin, if_neg hp]
    | drain =>
      by_cases hp : s.passOpen = true
      · exact .inl ⟨0, s.inputs, show s.act = s.edge 0 by simp only [State.act, hin, if_pos hp]⟩
      · by_cases hs : s.stream = []
        · refine .inr (.inl ⟨{ s with inputs := rest }, ?_, rfl, .inl ⟨rfl, rfl⟩, .inl rfl⟩)
          simp only [step, State.act, hin, if_neg hp, if_pos hs]
        · exact .inl ⟨1, s.inputs, show s.act = s.edge 1 by simp only [State.act, hin, if_neg hp, if_neg hs]⟩
    | push bs =>
      refine .inr (.inl ⟨({ s with inputs := rest } : State).push bs false, ?_, rfl, .inr ⟨bs, false, rfl, rfl, rfl⟩,
        .inl rfl⟩)
      simp only [step, State.act, hin]
    | pushLate bs =>
      refine .inr (.inl ⟨({ s with inputs := rest } : State).push bs true, ?_, rfl, .inr ⟨bs, true, rfl, rfl, rfl⟩,
        .inl rfl⟩)
      simp only [step, State.act, hin]
    | readLatest =>
      refine .inr (.inl ⟨({ s with inputs := rest } : State).observe (.latest s.readLatest), ?_, rfl, .inl ⟨rfl, rfl⟩,
        .inr ⟨_, rfl, by simp⟩⟩)
      simp only [step, State.act, hin]
      rfl
    | readStatus =>
      refine .inr (.inl ⟨({ s with inputs := rest } : State).observe (.status s.status), ?_, rfl, .inl ⟨rfl, rfl⟩,
        .inr ⟨_, rfl, by simp⟩⟩)
      simp only [step, State.act, hin]
      rfl
    | readField f =>
      by_cases hv : s.recValid = true
      · refine .inr (.inl ⟨({ s with inputs := rest } : State).observe (.recField f (s.latest.field f)), ?_, rfl,
          .inl ⟨rfl, rfl⟩, .inr ⟨_, rfl, by simp⟩⟩)
        simp only [step, State.act, hin, State.sampleField, State.readField, if_pos hv]
      · refine .inr (.inr (.inl ⟨f, rest, rfl, by simpa using hv, ?_⟩))
        simp only [step, State.act, hin, State.sampleField, State.readField, if_neg hv]
    | driveFrame bus =>
      refine .inr (.inl ⟨{ s with inputs := rest, decFrame := bus }, ?_, rfl, .inl ⟨rfl, rfl⟩, .inl rfl⟩)
      simp only [step, State.act, hin]
    | decLen w =>
      by_cases hw : w < 2 ^ 6
      · simp only [step, State.act, hin, State.presentLength, decodeWord, if_pos hw, decodeLength]
        split
        · exact .inr (.inl ⟨_, rfl, rfl, .inl ⟨rfl, rfl⟩, .inr ⟨_, rfl, by simp⟩⟩)
        · exact .inr (.inl ⟨_, rfl, rfl, .inl ⟨rfl, rfl⟩, .inr ⟨_, rfl, by simp⟩⟩)
      · refine .inr (.inr (.inr ⟨w, rest, rfl, by omega, ?_⟩))
        simp only [step, State.act, hin, State.presentLength, decodeWord, if_neg hw]
    | decCall n =>
      simp only [step, State.act, hin, decodeLength]
      split
      · exact .inr (.inl ⟨_, rfl, rfl, .inl ⟨rfl, rfl⟩, .inr ⟨_, rfl, by simp⟩⟩)
      · exact .inr (.inl ⟨_, rfl, rfl, .inl ⟨rfl, rfl⟩, .inr ⟨_, rfl, by simp⟩⟩)

end Sys2Proof.Machine
end

