-- ==== Sys2Proof/Laws/PerInstr.lean ====
section
/-! SUPPORT. The statement family over all operations, one lemma per constructor: the encoder's word of a well-formed
operation fits its channel (R64, R71, R72). -/

namespace Sys2Proof.Laws

/-- The word of a well-formed operation fits the width of its channel. -/
def wordFits.Statement (i : Instr) : Prop := i.wellFormed = true → (encode i).2 < 2 ^ (encode i).1.width

theorem wordFits.syncStart : wordFits.Statement .syncStart := fun _ => (selectorWord _ _ _).isLt
theorem wordFits.syncDiscard (b : Byte) : wordFits.Statement (.syncDiscard b) := fun _ => (selectorWord _ _ _).isLt
theorem wordFits.syncReservedW (len : BitVec 6) (b : Byte) : wordFits.Statement (.syncReservedW len b) :=
  fun _ => (selectorWord _ _ _).isLt
theorem wordFits.syncReservedA0 (b : Byte) : wordFits.Statement (.syncReservedA0 b) := fun _ => (selectorWord _ _ _).isLt
theorem wordFits.syncReservedAhi (len : BitVec 6) (b : Byte) : wordFits.Statement (.syncReservedAhi len b) :=
  fun _ => (selectorWord _ _ _).isLt
theorem wordFits.syncCmdCheck (b : Byte) : wordFits.Statement (.syncCmdCheck b) := fun _ => (selectorWord _ _ _).isLt
theorem wordFits.syncFrameCheck (b : Byte) : wordFits.Statement (.syncFrameCheck b) := fun _ => (selectorWord _ _ _).isLt
theorem wordFits.syncAppend (len : BitVec 6) (b : Byte) : wordFits.Statement (.syncAppend len b) :=
  fun _ => (selectorWord _ _ _).isLt
theorem wordFits.decode : wordFits.Statement .decode := by intro _; decide
theorem wordFits.decodeLenErr (n : Nat) : wordFits.Statement (.decodeLenErr n) := by
  intro h
  simp only [Instr.wellFormed, Bool.and_eq_true, decide_eq_true_eq] at h
  exact h.2
theorem wordFits.reset (feed : Bool) : wordFits.Statement (.reset feed) := by
  intro _
  cases feed <;> decide
theorem wordFits.feed : wordFits.Statement .feed := by intro _; decide
theorem wordFits.readLatest : wordFits.Statement .readLatest := by intro _; decide
theorem wordFits.readStatus : wordFits.Statement .readStatus := by intro _; decide

end Sys2Proof.Laws
end

