-- ==== Sys2Proof/Tests/Slice0.lean ====
section
/-! SUPPORT. Tests. Expected results come from 95_test_vectors.md (named V-…) or from the encodings written out by hand; and, for
each statement with hypotheses, a witness that meets them. -/

namespace Sys2Proof.Tests

open Sys2Proof Sys2Proof.Machine

/-! ### Well-formedness: an ill-formed term for each check -/

theorem test_discard_of_marker_ill_formed : (Instr.syncDiscard 0x76).wellFormed = false := by decide
theorem test_reservedW_of_zero_ill_formed : (Instr.syncReservedW 0 0x11).wellFormed = false := by decide
theorem test_reservedAhi_of_47_ill_formed : (Instr.syncReservedAhi 47 0x11).wellFormed = false := by decide
theorem test_append_at_0_ill_formed : (Instr.syncAppend 0 0x11).wellFormed = false := by decide
theorem test_append_at_23_ill_formed : (Instr.syncAppend 23 0x11).wellFormed = false := by decide
theorem test_append_at_47_ill_formed : (Instr.syncAppend 47 0x11).wellFormed = false := by decide
theorem test_lenErr_of_48_ill_formed : (Instr.decodeLenErr 48).wellFormed = false := by decide
theorem test_lenErr_of_64_ill_formed : (Instr.decodeLenErr 64).wellFormed = false := by decide

/-! ### Decoding: words written out from R64, R65, R71 and R72 (SEL column of 95_test_vectors.md 2.1) -/

-- 0 000000 01110110 (V-B1)
theorem test_decode_start : decodeWord .selector 0b000000001110110 = .ok .syncStart := by rfl
-- 0 000000 01110111 (V-B3)
theorem test_decode_discard : decodeWord .selector 0b000000001110111 = .ok (.syncDiscard 0x77) := by rfl
-- 0 000101 01110110 (V-B17)
theorem test_decode_reservedW : decodeWord .selector 0b000010101110110 = .ok (.syncReservedW 5 0x76) := by rfl
-- 1 000000 00010001 (V-B18)
theorem test_decode_reservedA0 : decodeWord .selector 0b100000000010001 = .ok (.syncReservedA0 0x11) := by rfl
-- 1 110000 00010001 (V-B19)
theorem test_decode_reservedAhi : decodeWord .selector 0b111000000010001 = .ok (.syncReservedAhi 48 0x11) := by rfl
-- 1 010111 11111111 (V-B10)
theorem test_decode_cmdCheck : decodeWord .selector 0b101011111111111 = .ok (.syncCmdCheck 0xFF) := by rfl
-- 1 101111 00000000 (V-B13)
theorem test_decode_frameCheck : decodeWord .selector 0b110111100000000 = .ok (.syncFrameCheck 0x00) := by rfl
-- 1 000101 01110110 (V-B6)
theorem test_decode_append : decodeWord .selector 0b100010101110110 = .ok (.syncAppend 5 0x76) := by rfl
theorem test_decode_decode : decodeWord .decLen 0b110000 = .ok .decode := by rfl
theorem test_decode_lenErr : decodeWord .decLen 0b101111 = .ok (.decodeLenErr 47) := by rfl
theorem test_decode_reset : decodeWord .strobe 0b11 = .ok (.reset true) := by rfl
theorem test_decode_feed : decodeWord .strobe 0b01 = .ok .feed := by rfl
theorem test_decode_readLatest : decodeWord .recPorts 0 = .ok .readLatest := by rfl
theorem test_decode_readStatus : decodeWord .statusPort 0 = .ok .readStatus := by rfl
theorem test_decode_no_strobe : decodeWord .strobe 0b00 = .error .noStrobe := by rfl
theorem test_decode_wide_length : decodeWord .decLen 64 = .error .lengthTooWide := by rfl
theorem test_decode_wide_selector : decodeWord .selector 0x8000 = .error .selectorTooWide := by rfl
theorem test_table_word_reset : decodeTableWord 8 0b10 = some (.reset false) := by rfl
theorem test_table_word_start : decodeTableWord 16 0x0076 = some .syncStart := by rfl

/-! ### Helpers: reference frames, small states, and reading an answer -/

/-- F1 of 95_test_vectors.md section 0. -/
def f1 : List Byte :=
  [0x76, 0x16, 0xA0, 0x12, 0x16, 0, 0, 0, 0, 0, 0, 0, 0, 0, 0, 0, 0, 0, 0, 0, 0, 0x5A, 0, 0] ++
  [0x76, 0x16, 0x05, 0x01, 0x00, 0x7B, 0x06, 0xA4, 0x00, 0x50, 0x00, 0x64, 0x00, 0x96, 0x00, 0x64, 0x2D, 0, 0, 0, 0, 0,
    0, 0]

/-- F2 of 95_test_vectors.md section 0. -/
def f2 : List Byte :=
  [0x76, 0x76, 0x76, 0xFF, 0, 0, 0, 0, 0, 0, 0, 0, 0, 0, 0, 0, 0, 0, 0, 0, 0, 0x01, 0x76, 0x76] ++
  [0x76, 0x76, 0x0B, 0x02, 0xFF, 0xFF, 0x80, 0x00, 0x01, 0x00, 0xFF, 0x38, 0x00, 0x00, 0xFF, 0xFF, 0xFF, 0x0A, 0x76,
    0x76, 0x76, 0x00, 0x76, 0x76]

/-- The record of F1, from its table. -/
def rec1 : Record where
  curTemp := 18
  desTemp := 22
  runState := 5
  onOff := true
  supplyV := 123
  fanSpeed := 1700
  fanV := 80
  hxTemp := 100
  glowV := 150
  glowI := 100
  pumpF := 45
  errCode := 0
  runStateKnown := true
  errCodeKnown := true

/-- The record of F2, from its table. -/
def rec2 : Record where
  curTemp := 255
  desTemp := 0
  runState := 11
  onOff := false
  supplyV := 65535
  fanSpeed := 32768
  fanV := 256
  hxTemp := 65336
  glowV := 0
  glowI := 65535
  pumpF := 255
  errCode := 10
  runStateKnown := false
  errCodeKnown := true

/-- The cells of a list of bytes, from address `a` on. -/
def cellsFrom (a : Nat) : List Byte → Memory
  | [] => []
  | b :: bs => (a, b) :: cellsFrom (a + 1) bs

/-- A state of an open pass: WAIT with this stream. -/
def waiting (q : List Byte) : State := { State.reset with passOpen := true, stream := q }

/-- A state of an open pass: ACC with this live prefix and stream. -/
def accumulating (live q : List Byte) : State :=
  { State.reset with
    syncState := .acc, bufLen := BitVec.ofNat 6 live.length, frameBuf := cellsFrom 0 live, passOpen := true, stream := q }

/-- Does the answer have a next state of which `p` holds? -/
def nextHas (o : Out) (p : State → Bool) : Bool :=
  match o with
  | .next s => p s
  | .fault _ => false
  | .refused _ => false

theorem exists_next {o : Out} (h : nextHas o (fun _ => true) = true) : ∃ t, o = .next t := by
  cases o with
  | next t => exact ⟨t, rfl⟩
  | fault f => cases h
  | refused r => cases h

theorem exists_next_has {o : Out} {p : State → Bool} (h : nextHas o p = true) : ∃ t, o = .next t ∧ p t = true := by
  cases o with
  | next t => exact ⟨t, rfl, h⟩
  | fault f => cases h
  | refused r => cases h

/-! ### Single steps (95_test_vectors.md 2.1, 2.3, 2.4) -/

theorem test_start_V_B1 :
    nextHas (step (waiting [0x76])) (fun t => t.syncState == .acc && t.bufLen == 1 && t.frameBuf == [(0, 0x76)]) := by
  decide +kernel
theorem test_discard_V_B3 :
    nextHas (step (waiting [0x77, 0x11])) (fun t => t.syncState == .wait && t.bufLen == 0 && t.stream == [0x11]) := by
  decide +kernel
theorem test_append_V_B6 :
    nextHas (step (accumulating (f1.take 5) [0x76])) (fun t => t.bufLen == 6 && Memory.read t.frameBuf 5 == some 0x76) := by
  decide +kernel
theorem test_append_V_B12 :
    nextHas (step (accumulating (f1.take 46) [0x00])) (fun t => t.bufLen == 47 && t.syncState == .acc) := by
  decide +kernel
theorem test_cmdCheck_V_B8 :
    nextHas (step (accumulating (f1.take 23) [0x00])) (fun t => t.bufLen == 24 && t.trace == [] && t.passOpen) := by
  decide +kernel
theorem test_cmdCheck_V_B9 :
    nextHas (step (accumulating ((f1.set 21 0).take 23) [0x00, 0x76]))
      (fun t => t.status == 0x00 && t.trace == [.event .ferrCmd] && !t.passOpen && t.stream == [0x76] && t.evtCode == 2) := by
  decide +kernel
theorem test_frameCheck_V_B13 :
    nextHas (step (accumulating (f1.take 47) [0x00]))
      (fun t => t.status == 0x80 && t.latest == rec1 && t.trace == [.event (.record rec1)] && t.passOpen) := by
  decide +kernel
theorem test_frameCheck_V_B16 :
    nextHas (step (accumulating (((f1.set 24 0x77).set 45 0x01).take 47) [0x00]))
      (fun t => t.status == 0x00 && t.trace == [.event (.ferrResp 3)] && t.evtCode == 7 && t.passOpen) := by
  decide +kernel
theorem test_reservedW_V_B17 :
    step { waiting [0x11] with bufLen := 5 } = .fault (.invariantBroken .wait 5) := by rfl
theorem test_reservedA0_V_B18 :
    step { waiting [0x11] with syncState := .acc } = .fault (.invariantBroken .acc 0) := by rfl
theorem test_reservedAhi_V_B19 :
    step { waiting [0x11] with syncState := .acc, bufLen := 48 } = .fault (.invariantBroken .acc 48) := by rfl
theorem test_decode_F2_V_L2 : decodeBytes f2 = .record rec2 := by decide +kernel
theorem test_decode_bus_P5 :
    nextHas (exec .decode { State.reset with decFrame := busOfBytes f2 }) (fun t => t.trace == [.decoded rec2]) := by
  decide +kernel
theorem test_bus_byte_26_P5 : (busOfBytes f2).extractLsb' 208 8 = 0x0B#8 := by decide +kernel
theorem test_lenErr_V_D32 :
    nextHas (step { State.reset with inputs := [.decLen 47] }) (fun t => t.trace == [.event (.lenErr 47)]) := by
  decide +kernel
theorem test_reset_V_H6 :
    nextHas (step { accumulating (f1.take 30) [0x11, 0x22] with recValid := true, inputs := [.edge 2] })
      (fun t => t.status == 0x00 && t.readLatest == none && t.stream == [0x11, 0x22] && !t.passOpen) := by
  decide +kernel
theorem test_feed_opens : nextHas (step { State.reset with inputs := [.edge 1] }) (fun t => t.passOpen && t.trace == []) := by
  decide +kernel
theorem test_readLatest_V_H1 :
    nextHas (step { State.reset with inputs := [.readLatest] }) (fun t => t.trace == [.latest none]) := by
  decide +kernel
theorem test_readStatus_V_H3 :
    nextHas (step { accumulating [0x76, 0x00, 0x00] [] with inputs := [.readStatus] }) (fun t => t.trace == [.status 0x43]) := by
  decide +kernel
theorem test_readField_before_record :
    step { State.reset with inputs := [.readField .glowV] } = .fault (.recordNotValid .glowV) := by rfl
theorem test_dec_V_D22 : decChars 5 2 = ['0', '.', '0', '5'] := by decide
theorem test_dec_V_D39 : decChars 65535 1 = ['6', '5', '5', '3', '.', '5'] := by decide
theorem test_script_line_P2 :
    readStmt (lineWords [] ['P', 'U', 'S', 'H', ' ', '0', '0', ' ', 'F', 'F', ' ', ';', ' ', 'x']) = some (.push [0x00, 0xFF]) := by
  decide
theorem test_placed_word_runs :
    nextHas (step (State.reset.withFetchWord 16 0x5700)) (fun t => t.bufLen == 24) := by
  decide +kernel

theorem test_late_push_waits_V_S11 :
    nextHas (step { waiting [] with inputs := [.pushLate [0x76]] })
      (fun t => t.stream == [0x76] && t.heldBack == 1 && !t.inValid) := by
  decide
theorem test_pass_ends_before_late_byte_V_S11 :
    nextHas (step { waiting [0x76] with heldBack := 1, inputs := [.await] })
      (fun t => t.stream == [0x76] && !t.passOpen && t.syncState == .wait && t.inValid) := by
  decide
theorem test_push_joins_pass_V_S11 :
    nextHas (step { waiting [] with inputs := [.push [0x76]] }) (fun t => t.passOpen && t.inValid) := by
  decide

/-! ### Witnesses: each meets the hypotheses of the statement it is named after -/

theorem witness_StepRunsByteOperation :
    (waiting [0x76]).passOpen = true ∧ (waiting [0x76]).inValid = true ∧ (waiting [0x76]).stream = [0x76] ∧
      (waiting [0x76]).inputs = [] ∧
      decodeWord .selector (selectorWord (waiting [0x76]).syncState.bit (waiting [0x76]).bufLen 0x76).toNat = .ok .syncStart ∧
      ({ waiting [0x76] with inputs := [.await] } : State).inputs = .await :: [] ∧
      ({ waiting [0x76] with inputs := [.drain] } : State).inputs = .drain :: [] ∧
      ({ waiting [0x76] with inputs := [.edge 1] } : State).inputs = .edge 1 :: [] ∧ (1 : BitVec 2).getLsbD 1 = false := by
  refine ⟨rfl, rfl, rfl, rfl, rfl, rfl, rfl, rfl, by decide⟩

theorem witness_PassEndsWithoutByte :
    ({ waiting [0x76] with heldBack := 1 } : State).passOpen = true ∧ ({ waiting [0x76] with heldBack := 1 } : State).inValid = false ∧
      (waiting []).inValid = false ∧ (waiting []).inputs = [] ∧
      ({ waiting [] with inputs := [.await] } : State).inputs = .await :: [] ∧
      ({ waiting [] with inputs := [.drain] } : State).inputs = .drain :: [] ∧
      ({ waiting [] with inputs := [.edge 1] } : State).inputs = .edge 1 :: [] ∧ (1 : BitVec 2).getLsbD 1 = false := by
  decide

theorem witness_StepRunsHostOperation :
    decodeWord .strobe (3 : BitVec 2).toNat = .ok (.reset true) ∧
      (State.reset.passOpen = false ∧ decodeWord .strobe (1 : BitVec 2).toNat = .ok .feed) ∧
      decodeWord .decLen 63 = .ok (.decodeLenErr 63) ∧ decodeWord .decLen 48 = .ok .decode ∧
      decodeWord .recPorts 0 = .ok .readLatest ∧ decodeWord .statusPort 0 = .ok .readStatus ∧
      ({ State.reset with inputs := [.edge 3] } : State).inputs = .edge 3 :: [] ∧
      ({ State.reset with inputs := [.edge 1] } : State).inputs = .edge 1 :: [] ∧
      ({ State.reset with inputs := [.decLen 63] } : State).inputs = .decLen 63 :: [] ∧
      ({ State.reset with inputs := [.decCall 49] } : State).inputs = .decCall 49 :: [] ∧
      ({ State.reset with inputs := [.readLatest] } : State).inputs = .readLatest :: [] ∧
      ({ State.reset with inputs := [.readStatus] } : State).inputs = .readStatus :: [] :=
  ⟨rfl, ⟨rfl, rfl⟩, rfl, rfl, rfl, rfl, rfl, rfl, rfl, rfl, rfl, rfl⟩

theorem witness_DecodeOfEncode :
    (Instr.syncAppend 46 0x76).wellFormed = true ∧ (Instr.syncReservedAhi 63 0xFF).wellFormed = true ∧
      (Instr.decodeLenErr 63).wellFormed = true := by decide

theorem witness_EncodeOfDecode : decodeWord .selector 0x7FFF = .ok (.syncReservedAhi 63 0xFF) := by rfl

theorem witness_SyncStartResult :
    (waiting [0x76]).syncState = .wait ∧ (waiting [0x76]).bufLen = 0 ∧ (waiting [0x76]).stream = 0x76 :: [] :=
  ⟨rfl, rfl, rfl⟩

theorem witness_SyncDiscardResult :
    (waiting [0x77]).syncState = .wait ∧ (waiting [0x77]).bufLen = 0 ∧ (0x77 : Byte) ≠ 0x76 ∧
      (waiting [0x77]).stream = 0x77 :: [] :=
  ⟨rfl, rfl, by decide, rfl⟩

theorem witness_SyncAppendResult :
    (accumulating (f1.take 22) [0x76]).syncState = .acc ∧ (accumulating (f1.take 22) [0x76]).stream = 0x76 :: [] ∧
      (accumulating (f1.take 22) [0x76]).bufLen.toNat = 22 ∧ (accumulating (f1.take 46) [0x76]).bufLen.toNat = 46 := by
  decide

theorem witness_SyncCmdCheckResult :
    (accumulating (f1.take 23) [0x00]).syncState = .acc ∧ (accumulating (f1.take 23) [0x00]).bufLen = 23 ∧
      (accumulating (f1.take 23) [0x00]).stream = 0x00 :: [] ∧
      Memory.read (accumulating (f1.take 23) [0x00]).frameBuf 21 = some 0x5A ∧
      Memory.read (accumulating ((f1.set 21 0).take 23) [0x00]).frameBuf 21 = some 0x00 := by
  decide

theorem witness_SyncFrameCheckResult :
    (accumulating (f1.take 47) [0x00]).syncState = .acc ∧ (accumulating (f1.take 47) [0x00]).bufLen = 47 ∧
      (accumulating (f1.take 47) [0x00]).stream = 0x00 :: [] ∧
      ∃ F : Frame, (∀ i : Fin 48, i.1 < 47 → Memory.read (accumulating (f1.take 47) [0x00]).frameBuf i.1 = some (F.at i)) ∧
        F.at 47 = 0x00 :=
  ⟨rfl, rfl, rfl, ⟨f1, rfl⟩, by decide +kernel, by decide +kernel⟩

theorem witness_ReservedSelectorsFault :
    ({ waiting [0x11] with bufLen := 63 } : State).syncState = .wait ∧ ({ waiting [0x11] with bufLen := 63 } : State).bufLen ≠ 0 ∧
      ({ waiting [0x11] with syncState := .acc, bufLen := 48 } : State).bufLen.toNat = 48 ∧
      (waiting [0x11]).passOpen = true ∧ (waiting [0x11]).inValid = true ∧ (waiting [0x11]).inputs = [] ∧ (waiting [0x11]).stream = 0x11 :: [] := by
  decide

theorem witness_DecodeLenErrResult :
    (47 : Nat) ≠ 48 ∧ (63 : Nat) < 64 ∧ ({ State.reset with inputs := [.decCall 64] } : State).inputs = .decCall 64 :: [] ∧
      ({ State.reset with inputs := [.decLen 63] } : State).inputs = .decLen 63 :: [] := by
  decide

theorem witness_DecodeOfByteSequence : ([] : List Byte).length ≠ 48 := by decide

theorem witness_Descriptions :
    8 < (Frame.at ⟨f2, rfl⟩ 26).toNat ∧ (Frame.at ⟨f1, rfl⟩ 41) = 0 ∧ (Frame.at ⟨f2, rfl⟩ 41) = 10 ∧
      (Frame.at ⟨f1.set 26 8, rfl⟩ 26) = 8 ∧ (Frame.at ⟨f1.set 26 0, rfl⟩ 26) = 0 ∧
      10 < (Frame.at ⟨f1.set 41 11, rfl⟩ 41).toNat ∧ (Frame.at ⟨f1, rfl⟩ 26).toNat = (5 : Fin 9).1 := by
  decide +kernel

theorem witness_IgnoredOffsetsDoNotMatter :
    ∃ F G : Frame, F ≠ G ∧ ∀ i : Fin 48, i.1 ∈ [0, 3, 4, 21, 24, 45] ∨ (26 ≤ i.1 ∧ i.1 ≤ 41) → F.at i = G.at i :=
  ⟨⟨f1, rfl⟩, ⟨f1.set 47 0x76, rfl⟩, by decide +kernel, by decide +kernel⟩

theorem witness_ResetHasPriority :
    ({ waiting [0x76] with inputs := [.edge 3] } : State).inputs = .edge 3 :: [] ∧ (3 : BitVec 2).getLsbD 1 = true := by
  decide

theorem witness_FeedOpensPass : State.reset.passOpen = false := rfl

theorem witness_FieldReadNeedsValidRecord :
    ({ State.reset with inputs := [.readField .glowI] } : State).inputs = .readField .glowI :: [] ∧
      State.reset.recValid = false ∧ ({ State.reset with recValid := true } : State).recValid = true :=
  ⟨rfl, rfl, rfl⟩

theorem witness_PushAppendsAtTail :
    ({ waiting [0x11] with inputs := [.push [0x22]] } : State).inputs = .push [0x22] :: [] ∧
      ({ waiting [0x11] with inputs := [.pushLate [0x22]] } : State).inputs = .pushLate [0x22] :: [] := ⟨rfl, rfl⟩

theorem witness_StallChangesNothing :
    ({ accumulating (f1.take 24) [] with passOpen := false } : State).passOpen = false ∧
      ({ accumulating (f1.take 24) [] with passOpen := false } : State).inputs = [] :=
  ⟨rfl, rfl⟩

theorem witness_OneByteTakenPerEdge : ∃ t, (waiting [0x76]).edge 0 = .next t := exists_next (by decide +kernel)

theorem witness_PassControl :
    (1 : BitVec 2).getLsbD 1 = false ∧ (∃ t, State.reset.edge 1 = .next t) ∧ State.reset.passOpen = false ∧
      (∃ t, (waiting []).edge 0 = .next t) ∧ (waiting []).passOpen = true ∧ (waiting []).inValid = false ∧
      (∃ t, (accumulating ((f1.set 21 0).take 23) [0x00]).edge 0 = .next t) ∧
      (accumulating ((f1.set 21 0).take 23) [0x00]).inValid = true :=
  ⟨by decide, exists_next (by decide), rfl, exists_next (by decide), rfl, rfl, exists_next (by decide +kernel), rfl⟩

theorem witness_EventOutputAtEveryEdge :
    ∃ t, (accumulating (f1.take 47) [0x00]).edge 0 = .next t := exists_next (by decide +kernel)

theorem witness_EventCodesReadBack : Event.ferrResp 3 ≠ .ferrResp 0 := by decide

/-- A state in the middle of a frame that meets the whole invariant. -/
theorem accumulating_inv : (accumulating (f1.take 30) [0x00]).Inv where
  inv1 := by unfold State.Inv1; decide
  inv2 := fun _ => ⟨by decide, by decide, fun _ => ⟨0x5A, by decide, by decide⟩⟩
  live := by unfold State.LivePrefix; decide +kernel
  memory := by decide
  record := by intro h; cases h
  events := by unfold State.EventInv; decide
  hold := ⟨by decide, fun _ => rfl⟩

theorem witness_Inv1HoldsAndIsKept :
    (accumulating (f1.take 30) [0x00]).Inv1 ∧ ∃ t, step (accumulating (f1.take 30) [0x00]) = .next t :=
  ⟨accumulating_inv.inv1, exists_next (by decide +kernel)⟩

theorem witness_Inv2HoldsAndIsKept :
    (accumulating (f1.take 30) [0x00]).Inv2 ∧ ∃ t, step (accumulating (f1.take 30) [0x00]) = .next t :=
  ⟨accumulating_inv.inv2, exists_next (by decide +kernel)⟩

theorem witness_StepKeepsInvariant :
    (accumulating (f1.take 30) [0x00]).Inv ∧ ∃ t, step (accumulating (f1.take 30) [0x00]) = .next t :=
  ⟨accumulating_inv, exists_next (by decide +kernel)⟩

theorem witness_StepKeepsFrameBufferForm :
    Memory.wf (accumulating (f1.take 30) [0x00]).frameBuf = true ∧
      ∃ t, step (accumulating (f1.take 30) [0x00]) = .next t :=
  ⟨accumulating_inv.memory, exists_next (by decide +kernel)⟩

theorem witness_NoStopUnderInvariant :
    (accumulating (f1.take 30) [0x00]).Inv ∧ (accumulating (f1.take 30) [0x00]).hostLegal = true :=
  ⟨accumulating_inv, rfl⟩

theorem witness_BufLenInByteStep :
    (∃ t, (waiting []).stepByte 0x76 = .next t) ∧ (∃ t, (accumulating (f1.take 46) []).stepByte 0x00 = .next t) ∧
      (∃ t, (accumulating (f1.take 23) []).stepByte 0x00 = .next t) ∧
      ∃ t, (accumulating (f1.take 47) []).stepByte 0x00 = .next t :=
  ⟨exists_next (by decide +kernel), exists_next (by decide +kernel), exists_next (by decide +kernel),
    exists_next (by decide +kernel)⟩

theorem witness_AtMostOneEventPerStep :
    ∃ t, step (accumulating (f1.take 47) [0x00]) = .next t := exists_next (by decide +kernel)

theorem witness_FramingErrorEntry :
    ∃ t, step (accumulating ((f1.set 21 0).take 23) [0x00]) = .next t ∧
      decide (t.trace = (accumulating ((f1.set 21 0).take 23) [0x00]).trace ++ [.event .ferrCmd]) = true ∧
      Event.ferrCmd.isFramingError = true := by
  obtain ⟨t, h, h'⟩ := exists_next_has (o := step (accumulating ((f1.set 21 0).take 23) [0x00]))
    (p := fun t => decide (t.trace = (accumulating ((f1.set 21 0).take 23) [0x00]).trace ++ [.event .ferrCmd]))
    (by decide +kernel)
  exact ⟨t, h, h', rfl⟩

theorem witness_RecordRegisterIsAtomic :
    (∃ t, step (accumulating (f1.take 47) [0x00]) = .next t) ∧
      ∃ t, step { accumulating (f1.take 47) [0x00] with inputs := [.edge 2] } = .next t :=
  ⟨exists_next (by decide +kernel), exists_next (by decide +kernel)⟩

theorem witness_RecordOnlyForValidFrame :
    (accumulating (f1.take 47) [0x00]).Inv2 ∧ ∃ t, step (accumulating (f1.take 47) [0x00]) = .next t ∧
      decide (t.trace = (accumulating (f1.take 47) [0x00]).trace ++ [.event (.record rec1)]) = true :=
  ⟨fun _ => ⟨by decide, by decide, fun _ => ⟨0x5A, by decide, by decide⟩⟩, exists_next_has (by decide +kernel)⟩

theorem witness_DeadCellsAreUnobservable :
    ∃ s t : State, s ≠ t ∧ s.SameButDead t :=
  ⟨waiting [0x76], { waiting [0x76] with frameBuf := [(7, 0x55)] }, by decide, rfl, fun i hi => absurd hi (by simp [waiting, State.reset])⟩

theorem witness_ValidFrameGivesItsRecord :
    State.reset.syncState = .wait ∧ State.reset.bufLen = 0 ∧ Frame.valid ⟨f1, rfl⟩ = true :=
  ⟨rfl, rfl, by decide +kernel⟩

theorem witness_CorruptCommandMarkerRecovers :
    State.reset.syncState = .wait ∧ State.reset.bufLen = 0 ∧ Frame.onlyCmdEndBad ⟨f1.set 21 0, rfl⟩ = true :=
  ⟨rfl, rfl, by decide +kernel⟩

theorem witness_CorruptResponseMarkerRecovers :
    State.reset.syncState = .wait ∧ State.reset.bufLen = 0 ∧ Frame.onlyRespEndBad ⟨f1.set 45 1, rfl⟩ = true :=
  ⟨rfl, rfl, by decide +kernel⟩

theorem witness_AnyStateRecovers :
    (accumulating (f1.take 30) [0x00]).Inv ∧ (List.replicate 47 (0x55 : Byte)).length = 47 ∧
      (0x76 : Byte) ∉ List.replicate 47 (0x55 : Byte) ∧ Frame.valid ⟨f2, rfl⟩ = true :=
  ⟨accumulating_inv, by decide, by decide, by decide +kernel⟩

theorem witness_StepsRealiseFeedPass :
    ({ State.reset with stream := [0x76, 0x00], inputs := [.edge 1, .await] } : State).passOpen = false ∧
      ∃ u, ({ State.reset with stream := [0x76, 0x00], inputs := [] } : State).feedPass = .next u :=
  ⟨rfl, exists_next (by decide +kernel)⟩

theorem witness_EmptyFeedChangesNothing :
    ({ State.reset with inputs := [.edge 1, .await] } : State).passOpen = false ∧
      ({ State.reset with inputs := [.edge 1, .await] } : State).stream = [] ∧
      ({ State.reset with inputs := [.edge 1, .await] } : State).inputs = .edge 1 :: .await :: [] :=
  ⟨rfl, rfl, rfl⟩

theorem witness_FeedMakesProgress :
    (accumulating (f1.take 30) [0x00]).Inv ∧ (accumulating (f1.take 30) [0x00]).stream ≠ [] ∧
      ({ State.reset with stream := [0x76, 0x00] } : State).stream ≠ [] ∧
      (∃ t, ({ State.reset with stream := [0x76, 0x00] } : State).feedPass = .next t) ∧
      ∃ t, ({ State.reset with stream := [0x76, 0x00] } : State).feedChunks (List.replicate 2 []) = .next t :=
  ⟨accumulating_inv, by decide, by decide, exists_next (by decide +kernel), exists_next (by decide +kernel)⟩

theorem witness_BytesPushedDuringPass :
    (accumulating (f1.take 30) [0x00]).Inv ∧ (accumulating (f1.take 30) [0x00]).passOpen = true ∧
      (accumulating (f1.take 30) [0x00]).stream = [0x00] ++ [] ∧ (accumulating (f1.take 30) [0x00]).heldBack = 0 ∧
      ({ accumulating (f1.take 30) [0x00] with inputs := [.push [0x22], .await] } : State).inputs =
        .push [0x22] :: .await :: [] ∧
      ({ accumulating (f1.take 30) [0x00] with inputs := [.pushLate [0x22], .await] } : State).inputs =
        .pushLate [0x22] :: .await :: [] ∧
      State.Inv { accumulating (f1.take 30) [0x00] with heldBack := 1, inputs := [.push [0x22], .await] } ∧
      ({ accumulating (f1.take 30) [0x00] with heldBack := 1 } : State).stream = [] ++ [0x00] :=
  ⟨accumulating_inv, rfl, rfl, rfl, rfl, rfl,
    ⟨accumulating_inv.inv1, accumulating_inv.inv2, accumulating_inv.live, accumulating_inv.memory,
      accumulating_inv.record, accumulating_inv.events, by decide, fun h => by cases h⟩, rfl⟩

theorem witness_ChunkingOfRuns :
    (∀ hc, Input.edge hc ∈ [Input.edge 1, .push [0x76], .pushLate [0x00], .await, .drain] → hc.getLsbD 1 = false) ∧
      ∃ t, Sys2Proof.core.run 7
        { State.reset with inputs := [.edge 1, .push [0x76], .pushLate [0x00], .await, .drain] } = .next t :=
  ⟨by simp, exists_next (by decide)⟩

theorem witness_ChunkingInvariance :
    ∃ t, State.reset.feedChunks [[0x76], [], [0x00, 0x01]] = .next t := exists_next (by decide +kernel)

theorem witness_DrainEmptiesStream :
    State.Inv { accumulating (f1.take 30) [0x00] with passOpen := false, inputs := [.drain] } ∧
      ({ accumulating (f1.take 30) [0x00] with passOpen := false, inputs := [.drain] } : State).passOpen = false ∧
      ({ accumulating (f1.take 30) [0x00] with passOpen := false, inputs := [.drain] } : State).inputs = .drain :: [] :=
  ⟨⟨accumulating_inv.inv1, accumulating_inv.inv2, accumulating_inv.live, accumulating_inv.memory,
    accumulating_inv.record, accumulating_inv.events, by decide, fun _ => rfl⟩, rfl, rfl⟩

theorem witness_FrameStatementBytes :
    (47 : Nat) < 48 ∧ (46 : Nat) ≠ 47 ∧ ∃ F : Frame, F.1 = frameBytes [] :=
  ⟨by decide, by decide, ⟨frameBytes [], by decide⟩, rfl⟩

end Sys2Proof.Tests
end

section
/-! PROOFS. The frame part of the state (SYNC_STATE, BUF_LEN, FRAME_BUF): everything one step can do to it, said once, and
from that INV1 and INV2 (R23, R24). -/

namespace Sys2Proof.Machine

/-- What one step can do to SYNC_STATE, BUF_LEN and FRAME_BUF. -/
inductive State.FrameMove (s t : State) : Prop where
  /-- SYNC_DISCARD, FEED, the end of a pass, an idle edge, and every action of the environment. -/
  | keep (sync : t.syncState = s.syncState) (len : t.bufLen = s.bufLen) (buf : t.frameBuf = s.frameBuf)
  /-- RESET, a framing error (R157), and the emission of a record (R86). -/
  | drop (sync : t.syncState = .wait) (len : t.bufLen = 0)
  /-- SYNC_START (R82). -/
  | start (sync : t.syncState = .acc) (len : t.bufLen = 1)
      (buf : t.frameBuf = Memory.write s.frameBuf 0 Config.startMarker)
  /-- SYNC_APPEND (R84). -/
  | append (b : Byte) (appends : isAppendLen s.bufLen = true) (wasAcc : s.syncState = .acc) (sync : t.syncState = .acc)
      (len : t.bufLen = s.bufLen + 1) (buf : t.frameBuf = Memory.write s.frameBuf s.bufLen.toNat b)
  /-- SYNC_CMD_CHECK with a command end marker that passes (R85). -/
  | passCmd (b v : Byte) (marker : Memory.read s.frameBuf 21 = some v) (good : v ≠ Config.cmdEndBad)
      (wasAcc : s.syncState = .acc) (sync : t.syncState = .acc) (len : t.bufLen = 24)
      (buf : t.frameBuf = Memory.write s.frameBuf 23 b)

/-- The environment's actions are no part of what a frame move speaks of. -/
theorem State.FrameMove.of_inputs {s t : State} {ins : List Input} (h : State.FrameMove { s with inputs := ins } t) :
    s.FrameMove t := by
  cases h with
  | keep sync len buf => exact .keep sync len buf
  | drop sync len => exact .drop sync len
  | start sync len buf => exact .start sync len buf
  | append b appends wasAcc sync len buf => exact .append b appends wasAcc sync len buf
  | passCmd b v marker good wasAcc sync len buf => exact .passCmd b v marker good wasAcc sync len buf

theorem exec_byteOp_frameMove {s t : State} {b : Byte}
    (h : exec ((caseOf s.syncState.bit s.bufLen b).instr s.bufLen b) s = .next t) : s.FrameMove t := by
  rcases exec_byteOp_next h with
    ⟨_, _, _, h⟩ | ⟨_, _, _, h⟩ | ⟨hacc, _, h⟩ | ⟨_, _, h⟩ | ⟨hacc, happ, h⟩
  · obtain ⟨_, rfl⟩ := execSyncStart_next h
    exact .start rfl rfl rfl
  · obtain ⟨_, rfl⟩ := execSyncDiscard_next h
    exact .keep rfl rfl rfl
  · obtain ⟨_, v, hv, ⟨_, rfl⟩ | ⟨hgood, rfl⟩⟩ := execSyncCmdCheck_next h
    · exact .drop rfl rfl
    · exact .passCmd b v hv hgood hacc hacc rfl rfl
  · obtain ⟨_, F, _, ⟨_, rfl⟩ | ⟨_, rfl⟩⟩ := execSyncFrameCheck_next h
    · exact .drop rfl rfl
    · exact .drop rfl rfl
  · obtain ⟨_, rfl⟩ := execSyncAppend_next h
    exact .append b happ hacc hacc rfl rfl

theorem edge_frameMove {s t : State} {hc : BitVec 2} (h : s.edge hc = .next t) : s.FrameMove t := by
  rcases edge_cases s hc with
    ⟨f, _, he⟩ | ⟨_, _, he⟩ | ⟨_, _, he⟩ | ⟨_, _, _, he⟩ | ⟨_, _, _, b, q, _, _, he⟩ <;> rw [he] at h
  · cases h
    exact .drop rfl rfl
  · cases h
    exact .keep rfl rfl rfl
  · cases h
    exact .keep rfl rfl rfl
  · cases h
    exact .keep rfl rfl rfl
  · exact exec_byteOp_frameMove h

/-- Every step that answers makes one of the frame moves. -/
theorem step_frameMove {s t : State} (h : step s = .next t) : s.FrameMove t := by
  rcases step_cases s with ⟨hc, ins, he⟩ | ⟨u, he, hu, _, _⟩ | ⟨_, _, _, _, he⟩ | ⟨_, _, _, _, he⟩ <;> rw [he] at h
  · exact (edge_frameMove h).of_inputs
  · cases h
    rw [hu]
    exact .keep rfl rfl rfl
  · cases h
  · cases h

/-! ### INV1 (R23) -/

/-- INV1 in ACC: BUF_LEN is not 0. -/
theorem State.Inv1.of_acc {t : State} (hsync : t.syncState = .acc) (hlen : t.bufLen ≠ 0) : t.Inv1 :=
  iff_of_false (by simp [hsync]) hlen

/-- Row 8 of R65 leaves room for one more byte: BUF_LEN does not wrap (R84). -/
theorem toNat_succ_of_isAppendLen {n : BitVec 6} (h : isAppendLen n = true) :
    (n + 1).toNat = n.toNat + 1 ∧ 1 ≤ n.toNat ∧ n.toNat ≤ 46 ∧ n.toNat ≠ 23 := by
  simp only [isAppendLen, Bool.and_eq_true, decide_eq_true_eq, bne_iff_ne] at h
  obtain ⟨⟨hlo, hhi⟩, h23⟩ := h
  exact ⟨by bv_omega, hlo, hhi, h23⟩

theorem State.FrameMove.keeps_inv1 {s t : State} (h : s.FrameMove t) (hs : s.Inv1) : t.Inv1 := by
  cases h with
  | keep sync len buf => simpa only [State.Inv1, sync, len] using hs
  | drop sync len => simp [State.Inv1, sync, len]
  | start sync len buf => exact .of_acc sync (by simp [len])
  | append b appends wasAcc sync len buf =>
    obtain ⟨hsucc, _⟩ := toNat_succ_of_isAppendLen appends
    refine .of_acc sync fun h0 => ?_
    rw [← len, h0] at hsucc
    simp at hsucc
  | passCmd b v marker good wasAcc sync len buf => exact .of_acc sync (by simp [len])

/-- Settles O37: the frame part of a step is one of five moves, and each keeps INV1. -/
theorem inv1HoldsAndIsKept : Obligations.Inv1HoldsAndIsKept :=
  ⟨by simp [State.Inv1, State.reset], fun _ _ hs h => (step_frameMove h).keeps_inv1 hs⟩

/-! ### INV2 (R24) -/

/-- INV2 says nothing of a state in WAIT. -/
theorem State.Inv2.of_wait {t : State} (hsync : t.syncState = .wait) : t.Inv2 := by
  intro hacc
  simp [hsync] at hacc

/-- SYNC_APPEND writes neither `FB[0]` nor, once FB[21] is constrained, `FB[21]`: it writes at BUF_LEN, which is not 0 and,
from 24 bytes on, is above 21. It never brings BUF_LEN from 23 to 24. -/
theorem State.Inv2.append {s t : State} {b : Byte} (hs : s.Inv2) (appends : isAppendLen s.bufLen = true)
    (wasAcc : s.syncState = .acc) (len : t.bufLen = s.bufLen + 1)
    (buf : t.frameBuf = Memory.write s.frameBuf s.bufLen.toNat b) : t.Inv2 := by
  intro _
  obtain ⟨_, hstart, hmarker⟩ := hs wasAcc
  obtain ⟨hsucc, hlo, hhi, h23⟩ := toNat_succ_of_isAppendLen appends
  rw [len, buf, hsucc]
  refine ⟨by omega, ?_, fun h24 => ?_⟩
  · rwa [Memory.read_write_other _ _ (by omega)]
  · rw [Memory.read_write_other _ _ (by omega)]
    exact hmarker (by omega)

theorem State.FrameMove.keeps_inv2 {s t : State} (h : s.FrameMove t) (hs : s.Inv2) : t.Inv2 := by
  cases h with
  | keep sync len buf => simpa only [State.Inv2, sync, len, buf] using hs
  | drop sync len => exact .of_wait sync
  | start sync len buf =>
    intro _
    rw [len, buf]
    exact ⟨by decide, Memory.read_write_same _ _ _, fun h24 => absurd h24 (by decide)⟩
  | append b appends wasAcc sync len buf => exact hs.append appends wasAcc len buf
  | passCmd b v marker good wasAcc sync len buf =>
    intro _
    obtain ⟨_, hstart, _⟩ := hs wasAcc
    rw [len, buf, Memory.read_write_other _ _ (by decide), Memory.read_write_other _ _ (by decide)]
    exact ⟨by decide, hstart, fun _ => ⟨v, marker, good⟩⟩

/-- Settles O38: the frame part of a step is one of five moves, and each keeps INV2; `FB[21]` is known to be good from BUF_LEN
24 on because the command check is the only way there. -/
theorem inv2HoldsAndIsKept : Obligations.Inv2HoldsAndIsKept :=
  ⟨.of_wait rfl, fun _ _ hs h => (step_frameMove h).keeps_inv2 hs⟩

end Sys2Proof.Machine
end

section
/-! PROOFS. The byte-step operations of the synchronizer in a state that selects them: each answers, and with what result and
frame (R82 to R86). -/

namespace Sys2Proof.Machine

/-- The state (WAIT, 0), in which the synchronizer looks for a start marker (R82, R83). -/
structure State.Waits (s : State) : Prop where
  sync : s.syncState = .wait
  len : s.bufLen = 0

/-! ### Which operation a state selects -/

theorem State.Waits.byteOp_start {s : State} {q : List Byte} (h : s.Waits) (hs : s.stream = 0x76 :: q) :
    s.byteOp = some .syncStart := by
  rw [State.byteOp_cons hs, h.sync, h.len]
  rfl

theorem State.Waits.byteOp_discard {s : State} {b : Byte} {q : List Byte} (h : s.Waits) (hs : s.stream = b :: q)
    (hb : b ≠ 0x76) : s.byteOp = some (.syncDiscard b) := by
  have hcase : caseOf SyncState.wait.bit 0 b = .discard := if_neg hb
  rw [State.byteOp_cons hs, h.sync, h.len, hcase]
  rfl

theorem byteOp_cmdCheck {s : State} {b : Byte} {q : List Byte} (hacc : s.syncState = .acc) (hlen : s.bufLen = 23)
    (hs : s.stream = b :: q) : s.byteOp = some (.syncCmdCheck b) := by
  rw [State.byteOp_cons hs, hacc, hlen]
  rfl

theorem byteOp_frameCheck {s : State} {b : Byte} {q : List Byte} (hacc : s.syncState = .acc) (hlen : s.bufLen = 47)
    (hs : s.stream = b :: q) : s.byteOp = some (.syncFrameCheck b) := by
  rw [State.byteOp_cons hs, hacc, hlen]
  rfl

/-- The BUF_LEN values of SYNC_APPEND: those that no other row of ACC takes (R65, R84). -/
theorem caseOf_append {n : BitVec 6}
    (hn : (1 ≤ n.toNat ∧ n.toNat ≤ 22) ∨ (24 ≤ n.toNat ∧ n.toNat ≤ 46)) (b : Byte) :
    caseOf SyncState.acc.bit n b = .append := by
  have h0 : n ≠ 0#6 := by bv_omega
  have hhi : ¬ 48 ≤ n.toNat := by omega
  have h23 : n ≠ 23#6 := by bv_omega
  have h47 : n ≠ 47#6 := by bv_omega
  simp [caseOf, SyncState.bit, h0, hhi, h23, h47]

theorem byteOp_append {s : State} {b : Byte} {q : List Byte} (hacc : s.syncState = .acc)
    (hlen : (1 ≤ s.bufLen.toNat ∧ s.bufLen.toNat ≤ 22) ∨ (24 ≤ s.bufLen.toNat ∧ s.bufLen.toNat ≤ 46))
    (hs : s.stream = b :: q) : s.byteOp = some (.syncAppend s.bufLen b) := by
  rw [State.byteOp_cons hs, hacc, caseOf_append hlen]
  rfl

/-! ### A selected operation answers -/

theorem execSyncStart_answers {s : State} (h : s.byteOp = some .syncStart) : ∃ t, execSyncStart s = .next t :=
  ⟨_, whenSelected_next.mpr ⟨h, answer_next.mpr (bind_ok.mpr ⟨_, writeCell_of_lt _ _ (by decide), rfl⟩)⟩⟩

theorem execSyncAppend_answers {s : State} {b : Byte} (h : s.byteOp = some (.syncAppend s.bufLen b))
    (hlen : s.bufLen.toNat < 48) : ∃ t, execSyncAppend s.bufLen b s = .next t :=
  ⟨_, whenSelected_next.mpr ⟨h, answer_next.mpr (bind_ok.mpr ⟨_, writeCell_of_lt _ _ hlen, rfl⟩)⟩⟩

theorem execSyncCmdCheck_answers {s : State} {b v : Byte} (h : s.byteOp = some (.syncCmdCheck b))
    (hv : Memory.read s.frameBuf 21 = some v) : ∃ t, execSyncCmdCheck b s = .next t :=
  ⟨_, whenSelected_next.mpr ⟨h, answer_next.mpr (bind_ok.mpr
    ⟨v, readCell_ok.mpr ⟨by decide, hv⟩, bind_ok.mpr ⟨_, writeCell_of_lt _ _ (by decide), rfl⟩⟩)⟩⟩

theorem execSyncFrameCheck_answers {s : State} {b : Byte} {F : Frame} (h : s.byteOp = some (.syncFrameCheck b))
    (hF : s.assembleFrame b = .ok F) : ∃ t, execSyncFrameCheck b s = .next t :=
  ⟨_, whenSelected_next.mpr ⟨h, answer_next.mpr (bind_ok.mpr
    ⟨F, hF, bind_ok.mpr ⟨_, writeCell_of_lt _ _ (by decide), rfl⟩⟩)⟩⟩

/-! ### The frame of the frame check -/

theorem Frame.length_eq (F : Frame) : F.1.length = 48 := F.2

theorem Frame.ext_at {F G : Frame} (h : ∀ i, F.at i = G.at i) : F = G := by
  have hlen := F.length_eq
  exact Subtype.ext (List.ext_getElem (hlen.trans G.length_eq.symm) fun i hi _ => h ⟨i, by omega⟩)

/-- The frame check works on the frame whose first 47 bytes are the cells and whose last is the byte consumed (R86). -/
theorem assembleFrame_of_cells {s : State} {F : Frame}
    (h : ∀ i : Fin 48, i.1 < 47 → Memory.read s.frameBuf i.1 = some (F.at i)) :
    s.assembleFrame (F.at 47) = .ok F := by
  obtain ⟨G, hG⟩ := assembleFrame_of_live s (F.at 47) fun i hi => by rw [h ⟨i, by omega⟩ hi]; rfl
  have hGF : G = F := by
    refine Frame.ext_at fun i => ?_
    have hi := assembleFrame_ok hG i
    split at hi
    · next hlt => exact Option.some.inj (hi.symm.trans (h i hlt))
    · next hge => rw [hi, show i = 47 from Fin.ext (by have := i.isLt; show i.1 = 47; omega)]
  rw [hG, hGF]

theorem causeMask_getLsbD_one (b24 b45 : Byte) : (causeMask b24 b45).getLsbD 1 = true ↔ b24 ≠ 0x76 := by
  rw [causeMask, BitVec.getLsbD_append]
  simp [Config.startMarker]

theorem causeMask_getLsbD_zero (b24 b45 : Byte) : (causeMask b24 b45).getLsbD 0 = true ↔ b45 ≠ 0x00 := by
  rw [causeMask, BitVec.getLsbD_append]
  simp [Config.respEndOk]

/-- The code of FERR_RESP is 0x4 with the cause mask in its two low bits (R70). -/
theorem code_ferrResp (m : BitVec 2) : (Event.ferrResp m).code = 0x4 ||| m.zeroExtend 4 := by
  revert m
  decide

/-! ### The results -/

theorem State.StoresAt.of_write {s t : State} {a : Nat} {v : Byte} (h : t.frameBuf = Memory.write s.frameBuf a v) :
    s.StoresAt t a v :=
  ⟨by rw [h, Memory.read_write_same], fun _ hc => by rw [h, Memory.read_write_other _ _ hc]⟩

/-- Settles O8: (WAIT, 0) with the start marker selects SYNC_START, whose one write is to `FB[0]`. -/
theorem syncStartResult : Obligations.SyncStartResult := by
  intro s q hwait hlen hs
  obtain ⟨t, ht⟩ := execSyncStart_answers (State.Waits.byteOp_start ⟨hwait, hlen⟩ hs)
  obtain ⟨_, rfl⟩ := execSyncStart_next ht
  refine ⟨_, ht, .of_write rfl, ?_⟩
  rw [hs]
  rfl

/-- Settles O9: (WAIT, 0) with any other byte selects SYNC_DISCARD. -/
theorem syncDiscardResult : Obligations.SyncDiscardResult := by
  intro s b q hwait hlen hb hs
  have ht : execSyncDiscard b s = .next s.consume.quiet :=
    whenSelected_of _ (State.Waits.byteOp_discard ⟨hwait, hlen⟩ hs hb)
  obtain ⟨_, hresult⟩ := execSyncDiscard_next ht
  rw [hs] at hresult
  exact hresult ▸ ht

/-- Settles O10: in this range of BUF_LEN the selected operation is SYNC_APPEND, its cell exists, and BUF_LEN does not wrap. -/
theorem syncAppendResult : Obligations.SyncAppendResult := by
  intro s b q hacc hs hlen
  obtain ⟨t, ht⟩ := execSyncAppend_answers (byteOp_append hacc hlen hs) (by omega)
  obtain ⟨_, rfl⟩ := execSyncAppend_next ht
  refine ⟨_, ht, .of_write rfl, ?_, ?_⟩
  · show (s.bufLen + 1).toNat = s.bufLen.toNat + 1
    bv_omega
  · rw [hs]
    rfl

/-- Settles O12: the frame the check assembles is F, and the two outcomes are those of its cause mask. -/
theorem syncFrameCheckResult : Obligations.SyncFrameCheckResult := by
  rintro s _ q F hacc hlen hs hcells rfl
  have hF := assembleFrame_of_cells hcells
  obtain ⟨t, ht⟩ := execSyncFrameCheck_answers (byteOp_frameCheck hacc hlen hs) hF
  obtain ⟨_, G, hG, hcases⟩ := execSyncFrameCheck_next ht
  obtain rfl : F = G := Except.ok.inj (hF.symm.trans hG)
  rw [hs] at hcases
  refine ⟨t, causeMask (F.at 24) (F.at 45), ht, ?_, causeMask_getLsbD_one _ _, causeMask_getLsbD_zero _ _, ?_⟩
  · obtain ⟨_, rfl⟩ | ⟨_, rfl⟩ := hcases
    · exact .of_write rfl
    · exact .of_write rfl
  · obtain ⟨hm, rfl⟩ | ⟨hm, rfl⟩ := hcases
    · rw [if_pos hm]
      rfl
    · rw [if_neg hm, ← code_ferrResp]
      rfl

end Sys2Proof.Machine
end

section
/-! PROOFS. Runs over whole frames (R97, R98): what the buffer holds after a part of a frame, the two checks at the ends of the
sub-frames, and from them the recovery after a corrupted marker. -/

namespace Sys2Proof.Machine

/-- In the middle of a frame: ACC, and the live cells of FRAME_BUF are the bytes `p` received since the start (R28). -/
structure State.Holds (s : State) (p : List Byte) : Prop where
  sync : s.syncState = .acc
  len : s.bufLen.toNat = p.length
  cells : ∀ i, i < p.length → Memory.read s.frameBuf i = p[i]?

/-- The bytes `xs` lead from `s` to `t` with the observations `os`, and LATEST, REC_VALID and STREAM are kept. -/
structure State.Runs (s : State) (xs : List Byte) (t : State) (os : List Obs) : Prop where
  run : s.runBytes xs = .next t
  stream : t.stream = s.stream
  trace : t.trace = s.trace ++ os
  latest : t.latest = s.latest
  recValid : t.recValid = s.recValid

/-! ### Composition of runs -/

/-- A run over `xs ++ ys` goes on over `ys` where the run over `xs` ends (R93). -/
theorem runBytes_append {s t : State} {xs : List Byte} (h : s.runBytes xs = .next t) (ys : List Byte) :
    s.runBytes (xs ++ ys) = t.runBytes ys := by
  induction xs generalizing s with
  | nil =>
    cases h
    rfl
  | cons x xs ih =>
    cases hx : s.stepByte x with
    | next u =>
      simp only [State.runBytes, hx] at h
      simp only [List.cons_append, State.runBytes, hx]
      exact ih h
    | fault f => simp [State.runBytes, hx] at h
    | refused r => simp [State.runBytes, hx] at h

theorem State.Runs.nil (s : State) : s.Runs [] s [] := ⟨rfl, rfl, (List.append_nil _).symm, rfl, rfl⟩

theorem State.Runs.append {s t u : State} {xs ys : List Byte} {os ps : List Obs} (h : s.Runs xs t os)
    (h' : t.Runs ys u ps) : s.Runs (xs ++ ys) u (os ++ ps) where
  run := by rw [runBytes_append h.run, h'.run]
  stream := by rw [h'.stream, h.stream]
  trace := by rw [h'.trace, h.trace, List.append_assoc]
  latest := by rw [h'.latest, h.latest]
  recValid := by rw [h'.recValid, h.recValid]

/-- A run over one byte is `exec` of the operation that the byte selects at the head of STREAM (R80, R81). -/
theorem runBytes_singleton {s t : State} {b : Byte} {i : Instr}
    (hop : ({ s with stream := b :: s.stream } : State).byteOp = some i)
    (h : exec i { s with stream := b :: s.stream } = .next t) : s.runBytes [b] = .next t := by
  obtain rfl := Option.some.inj ((State.byteOp_cons rfl).symm.trans hop)
  have hstep : s.stepByte b = .next t := (stepByte_eq s b).trans h
  simp only [State.runBytes, hstep]

/-! ### One byte of a frame -/

/-- A byte stored at BUF_LEN joins the live cells (R84, R85). -/
theorem State.Holds.snoc {s t : State} {p : List Byte} {b : Byte} (h : s.Holds p) (sync : t.syncState = .acc)
    (len : t.bufLen.toNat = p.length + 1) (buf : t.frameBuf = Memory.write s.frameBuf p.length b) :
    t.Holds (p ++ [b]) where
  sync := sync
  len := by simp [len]
  cells i hi := by
    rw [List.length_append, List.length_singleton] at hi
    rw [buf, Memory.read_write]
    split
    · next heq => rw [heq, List.getElem?_concat_length]
    · next hne => rw [h.cells i (by omega), List.getElem?_append_left (by omega)]

theorem State.Waits.runs_start {s : State} (h : s.Waits) : ∃ t, s.Runs [0x76] t [] ∧ t.Holds [0x76] := by
  have hop := State.Waits.byteOp_start (s := { s with stream := 0x76 :: s.stream }) ⟨h.sync, h.len⟩ rfl
  obtain ⟨t, ht⟩ := execSyncStart_answers hop
  obtain ⟨_, rfl⟩ := execSyncStart_next ht
  refine ⟨_, ⟨runBytes_singleton hop ht, rfl, (List.append_nil _).symm, rfl, rfl⟩, rfl, rfl, fun i hi => ?_⟩
  obtain rfl : i = 0 := by simpa using hi
  exact Memory.read_write_same _ _ _

theorem State.Holds.runs_append {s : State} {p : List Byte} (h : s.Holds p)
    (hp : (1 ≤ p.length ∧ p.length ≤ 22) ∨ (24 ≤ p.length ∧ p.length ≤ 46)) (b : Byte) :
    ∃ t, s.Runs [b] t [] ∧ t.Holds (p ++ [b]) := by
  have hlen := h.len
  have hop := byteOp_append (s := { s with stream := b :: s.stream }) h.sync (by simpa only [hlen] using hp) rfl
  obtain ⟨t, ht⟩ := execSyncAppend_answers hop (by show s.bufLen.toNat < 48; omega)
  obtain ⟨_, rfl⟩ := execSyncAppend_next ht
  refine ⟨_, ⟨runBytes_singleton hop ht, rfl, (List.append_nil _).symm, rfl, rfl⟩, h.snoc h.sync ?_ ?_⟩
  · show (s.bufLen + 1).toNat = p.length + 1
    bv_omega
  · show Memory.write s.frameBuf s.bufLen.toNat b = _
    rw [hlen]

/-- Bytes that meet neither check of the frame are appended one by one (R84). -/
theorem State.Holds.runs_appends {s : State} {p : List Byte} (h : s.Holds p) (xs : List Byte)
    (hp : (1 ≤ p.length ∧ p.length + xs.length ≤ 23) ∨ (24 ≤ p.length ∧ p.length + xs.length ≤ 47)) :
    ∃ t, s.Runs xs t [] ∧ t.Holds (p ++ xs) := by
  induction xs generalizing s p with
  | nil => exact ⟨s, .nil s, by rwa [List.append_nil]⟩
  | cons x xs ih =>
    rw [List.length_cons] at hp
    obtain ⟨t, hst, ht⟩ := h.runs_append (by omega) x
    obtain ⟨u, htu, hu⟩ := ih ht (by rw [List.length_append, List.length_singleton]; omega)
    exact ⟨u, hst.append htu, by simpa using hu⟩

/-- The 24th byte, where the command check reads `FB[21]` (R85): it drops the frame, or the frame goes on. -/
theorem State.Holds.runs_cmdCheck {s : State} {p : List Byte} {v : Byte} (h : s.Holds p) (hp : p.length = 23)
    (hv : p[21]? = some v) (b : Byte) :
    (v = 0 → ∃ t, s.Runs [b] t [.event .ferrCmd] ∧ t.Waits) ∧
      (v ≠ 0 → ∃ t, s.Runs [b] t [] ∧ t.Holds (p ++ [b])) := by
  have hlen : s.bufLen = 23 := BitVec.eq_of_toNat_eq (h.len.trans hp)
  have hmarker : Memory.read s.frameBuf 21 = some v := (h.cells 21 (by omega)).trans hv
  have hop := byteOp_cmdCheck (s := { s with stream := b :: s.stream }) h.sync hlen rfl
  obtain ⟨t, ht⟩ := execSyncCmdCheck_answers hop hmarker
  obtain ⟨_, w, hw, hcases⟩ := execSyncCmdCheck_next ht
  obtain rfl : v = w := Option.some.inj (hmarker.symm.trans hw)
  obtain ⟨h0, rfl⟩ | ⟨h0, rfl⟩ := hcases
  · exact ⟨fun _ => ⟨_, ⟨runBytes_singleton hop ht, rfl, rfl, rfl, rfl⟩, rfl, rfl⟩, fun hne => absurd h0 hne⟩
  · refine ⟨fun hv0 => absurd hv0 h0, fun _ =>
      ⟨_, ⟨runBytes_singleton hop ht, rfl, (List.append_nil _).symm, rfl, rfl⟩, h.snoc h.sync ?_ ?_⟩⟩
    · rw [hp]
      rfl
    · rw [hp]

/-- The 48th byte of a frame with a bad response marker (R86, R98). -/
theorem State.Holds.runs_frameCheck_bad {s : State} {p : List Byte} {b : Byte} {F : Frame} (h : s.Holds p)
    (hF : F.1 = p ++ [b]) (hbad : causeMask (F.at 24) (F.at 45) ≠ 0) :
    ∃ t, s.Runs [b] t [.event (.ferrResp (causeMask (F.at 24) (F.at 45)))] ∧ t.Waits := by
  have hp : p.length = 47 := by
    simpa [hF] using F.length_eq
  have hlast : F.at 47 = b := by simp [Frame.at, hF, hp]
  have hcells (i : Fin 48) (hi : i.1 < 47) : Memory.read s.frameBuf i.1 = some (F.at i) := by
    rw [h.cells i (by omega), ← List.getElem?_append_left (l₂ := [b]) (by omega), ← hF]
    exact List.getElem?_eq_getElem _
  have hlen : s.bufLen = 47 := BitVec.eq_of_toNat_eq (h.len.trans hp)
  have hassemble := assembleFrame_of_cells (s := { s with stream := b :: s.stream }) hcells
  rw [hlast] at hassemble
  have hop := byteOp_frameCheck (s := { s with stream := b :: s.stream }) h.sync hlen rfl
  obtain ⟨t, ht⟩ := execSyncFrameCheck_answers hop hassemble
  obtain ⟨_, G, hG, hcases⟩ := execSyncFrameCheck_next ht
  obtain rfl : F = G := Except.ok.inj (hassemble.symm.trans hG)
  obtain ⟨h0, _⟩ | ⟨_, rfl⟩ := hcases
  · exact absurd h0 hbad
  · exact ⟨_, ⟨runBytes_singleton hop ht, rfl, rfl, rfl, rfl⟩, rfl, rfl⟩

/-! ### One sub-frame -/

/-- From (WAIT, 0), 23 bytes of which the first is the start marker are held with no event. -/
theorem State.Waits.runs_to_cmdCheck {s : State} {p : List Byte} (h : s.Waits) (hp : p.length = 23)
    (hstart : p[0]? = some 0x76) : ∃ t, s.Runs p t [] ∧ t.Holds p := by
  obtain ⟨xs, rfl⟩ : ∃ xs, p = 0x76 :: xs := by
    cases p with
    | nil => simp at hstart
    | cons x xs => exact ⟨xs, by simpa using hstart⟩
  obtain ⟨t, hst, ht⟩ := h.runs_start
  obtain ⟨u, htu, hu⟩ := ht.runs_appends xs (.inl ⟨le_rfl, by simp at hp ⊢; omega⟩)
  exact ⟨u, hst.append htu, hu⟩

/-- 24 bytes from (WAIT, 0) on, the first of which is the start marker: the command check at their end goes by the byte at
offset 21 (R85). -/
theorem State.Waits.runs_subFrame {s : State} {xs : List Byte} {v : Byte} (h : s.Waits) (hxs : xs.length = 24)
    (hstart : xs[0]? = some 0x76) (hv : xs[21]? = some v) :
    (v = 0 → ∃ t, s.Runs xs t [.event .ferrCmd] ∧ t.Waits) ∧ (v ≠ 0 → ∃ t, s.Runs xs t [] ∧ t.Holds xs) := by
  obtain ⟨p, b, rfl⟩ : ∃ p b, xs = p ++ [b] :=
    ⟨_, _, (List.dropLast_append_getLast (by rintro rfl; simp at hxs)).symm⟩
  have hp : p.length = 23 := by simpa using hxs
  rw [List.getElem?_append_left (by omega)] at hstart hv
  obtain ⟨t, hst, ht⟩ := h.runs_to_cmdCheck hp hstart
  obtain ⟨hbad, hgood⟩ := ht.runs_cmdCheck hp hv b
  refine ⟨fun h0 => ?_, fun h0 => ?_⟩
  · obtain ⟨u, htu, hu⟩ := hbad h0
    exact ⟨u, hst.append htu, hu⟩
  · obtain ⟨u, htu, hu⟩ := hgood h0
    exact ⟨u, hst.append htu, hu⟩

/-! ### Recovery -/

theorem Frame.getElem?_eq_at (F : Frame) (i : Fin 48) : F.1[i.1]? = some (F.at i) := List.getElem?_eq_getElem _

/-- The command sub-frame of a frame (R97, R98): it is dropped, or held, by its end marker `F[21]`. -/
theorem State.Waits.runs_command {s : State} (h : s.Waits) {F : Frame} (h0 : F.at 0 = 0x76) :
    (F.at 21 = 0 → ∃ t, s.Runs (F.1.take 24) t [.event .ferrCmd] ∧ t.Waits) ∧
      (F.at 21 ≠ 0 → ∃ t, s.Runs (F.1.take 24) t [] ∧ t.Holds (F.1.take 24)) := by
  refine h.runs_subFrame (by simp [F.length_eq]) ?_ ?_
  · rw [List.getElem?_take_of_lt (by decide), ← h0]
    exact F.getElem?_eq_at 0
  · rw [List.getElem?_take_of_lt (by decide)]
    exact F.getElem?_eq_at 21

/-- Settles O50: the command check drops the first sub-frame; the second then begins a frame of its own, whose offset 21 is
`F[45] = 0x00`, so that the command check drops it too (R97, C7). -/
theorem corruptCommandMarkerRecovers : Obligations.CorruptCommandMarkerRecovers := by
  intro s F hwait hlen hF
  simp only [Frame.onlyCmdEndBad, Bool.and_eq_true, beq_iff_eq] at hF
  obtain ⟨⟨⟨h0, h21⟩, h24⟩, h45⟩ := hF
  obtain ⟨t, hst, ht⟩ := (State.Waits.runs_command ⟨hwait, hlen⟩ h0).1 h21
  have hresp : (F.1.drop 24)[0]? = some 0x76 := by
    rw [List.getElem?_drop, ← show F.at 24 = 0x76 from h24]
    exact F.getElem?_eq_at 24
  have hend : (F.1.drop 24)[21]? = some (F.at 45) := by
    rw [List.getElem?_drop]
    exact F.getElem?_eq_at 45
  obtain ⟨u, htu, hu⟩ := (ht.runs_subFrame (by simp [F.length_eq]) hresp hend).1 h45
  have hsu := hst.append htu
  rw [List.take_append_drop] at hsu
  exact ⟨u, hsu.run, hu.sync, hu.len, hsu.trace, hsu.latest, hsu.recValid, runBytes_append hsu.run⟩

/-- The cause mask of a frame of which only the response end marker is bad (R86). -/
theorem causeMask_of_respEnd_bad {b45 : Byte} (h : b45 ≠ 0x00) : causeMask 0x76 b45 = 0b01 := by
  have hend : (b45 != Config.respEndOk) = true := bne_iff_ne.mpr h
  rw [causeMask, hend]
  rfl

/-- A frame is its command sub-frame, the 23 bytes up to the frame check, and the byte checked. -/
theorem Frame.eq_take_append (F : Frame) : F.1 = F.1.take 24 ++ (F.1.drop 24).take 23 ++ [F.at 47] := by
  have hlast : F.1.take 47 ++ [F.at 47] = F.1.take 48 := List.take_append_getElem (by simp [F.length_eq])
  rw [← List.take_add, hlast, List.take_of_length_le F.length_eq.le]

/-- Settles O51: the first sub-frame passes the command check, the bytes up to offset 46 are appended, and the frame check at
the 48th byte finds only the response end marker bad (R98). -/
theorem corruptResponseMarkerRecovers : Obligations.CorruptResponseMarkerRecovers := by
  intro s F hwait hlen hF
  simp only [Frame.onlyRespEndBad, Bool.and_eq_true, beq_iff_eq, bne_iff_ne] at hF
  obtain ⟨⟨⟨h0, h21⟩, h24⟩, h45⟩ := hF
  have hmask : causeMask (F.at 24) (F.at 45) = 0b01 := by
    rw [h24]
    exact causeMask_of_respEnd_bad h45
  obtain ⟨t, hst, ht⟩ := (State.Waits.runs_command ⟨hwait, hlen⟩ h0).2 h21
  obtain ⟨u, htu, hu⟩ := ht.runs_appends ((F.1.drop 24).take 23) (.inr (by simp [F.length_eq]))
  obtain ⟨v, huv, hv⟩ := hu.runs_frameCheck_bad F.eq_take_append (by rw [hmask]; decide)
  rw [hmask] at huv
  have hsv := (hst.append htu).append huv
  rw [← F.eq_take_append] at hsv
  exact ⟨v, hsv.run, hv.sync, hv.len, hsv.trace, hsv.latest, hsv.recValid, runBytes_append hsv.run⟩

end Sys2Proof.Machine
end

section
/-! PROOFS. The decoder (R100 to R120): a record read field by field from the absolute offsets of its frame, the frame on
dec_frame, and the descriptions of the two codes. -/

namespace Sys2Proof.Machine

/-! ### The parts of a record -/

/-- `{hi, lo}` is the two bytes side by side (R44, R102). -/
theorem be16_eq_append (hi lo : Byte) : be16 hi lo = hi ++ lo := by
  rw [BitVec.append_def, BitVec.shiftLeftZeroExtend_eq, BitVec.setWidth'_eq]
  rfl

theorem Frame.resp16_eq_append (F : Frame) (r : Fin 23) :
    F.resp16 r = F.at (respOff r.castSucc) ++ F.at (respOff r.succ) :=
  be16_eq_append _ _

theorem onOffFlag_eq_decide (b : Byte) : onOffFlag b = decide (b = 0x01) := rfl

theorem isRunStateKnown_eq_decide (c : Byte) : isRunStateKnown c = decide (c.toNat ≤ 8) := rfl

theorem isErrorCodeKnown_eq_decide (c : Byte) : isErrorCodeKnown c = decide (c.toNat ≤ 10) := rfl

theorem decodeRecord_onOff_iff (F : Frame) : (decodeRecord F).onOff = true ↔ F.at 27 = 0x01 := decide_eq_true_iff

theorem decodeRecord_runStateKnown_iff (F : Frame) : (decodeRecord F).runStateKnown = true ↔ (F.at 26).toNat ≤ 8 :=
  decide_eq_true_iff

theorem decodeRecord_errCodeKnown_iff (F : Frame) : (decodeRecord F).errCodeKnown = true ↔ (F.at 41).toNat ≤ 10 :=
  decide_eq_true_iff

/-- Settles O19: a response-relative offset is 24 below the absolute one (C2), a 16-bit field is two bytes side by side, and
each flag has its own condition. -/
theorem recordFieldOffsets : Obligations.RecordFieldOffsets := fun F =>
  ⟨rfl, rfl, rfl, decodeRecord_onOff_iff F, F.resp16_eq_append 4, F.resp16_eq_append 6, F.resp16_eq_append 8,
    F.resp16_eq_append 10, F.resp16_eq_append 12, F.resp16_eq_append 14, rfl, rfl, decodeRecord_runStateKnown_iff F,
    decodeRecord_errCodeKnown_iff F⟩

/-! ### The frame on dec_frame -/

/-- The byte at an offset of the driven frame is its port bits (R137). -/
theorem Frame.ofBus_at (bus : BitVec 384) (i : Fin 48) : (Frame.ofBus bus).at i = busByte bus i.1 := by
  simp [Frame.at, Frame.ofBus, busByte]

theorem Frame.ofBus_resp16 (bus : BitVec 384) (r : Fin 23) : (Frame.ofBus bus).resp16 r = busHalf bus (24 + r.1) := by
  rw [Frame.resp16_eq_append, Frame.ofBus_at, Frame.ofBus_at]
  rfl

/-- Settles O14: DECODE observes the record of the driven frame, and that record has its fields from the port bits (R137). -/
theorem decodeResult : Obligations.DecodeResult := by
  intro s
  refine ⟨decodeRecord (Frame.ofBus s.decFrame), rfl, ?_⟩
  simp only [decodeRecord, Frame.ofBus_at, Frame.ofBus_resp16, onOffFlag_eq_decide, isRunStateKnown_eq_decide,
    isErrorCodeKnown_eq_decide]
  rfl

/-! ### The descriptions -/

/-- A code in the run-state domain is described by the parameter's entry (R11, R120). -/
theorem Record.runStateDesc_of_known {r : Record} (known : r.runStateKnown = true) (c : Fin 9)
    (code : r.runState.toNat = c.1) : r.runStateDesc = Config.runStateText c := by
  obtain ⟨n, hlt⟩ := c
  obtain rfl : r.runState.toNat = n := code
  exact dif_pos ⟨known, hlt⟩

theorem Record.runStateDesc_of_unknown {r : Record} (unknown : r.runStateKnown ≠ true) :
    r.runStateDesc = "Unknown Run State" :=
  dif_neg fun h => unknown h.1

/-- A code in the error-code domain is described by the parameter's entry (R11, R120). -/
theorem Record.errorCodeDesc_of_known {r : Record} (known : r.errCodeKnown = true) (c : Fin 11)
    (code : r.errCode.toNat = c.1) : r.errorCodeDesc = Config.errorCodeText c := by
  obtain ⟨n, hlt⟩ := c
  obtain rfl : r.errCode.toNat = n := code
  exact dif_pos ⟨known, hlt⟩

theorem Record.errorCodeDesc_of_unknown {r : Record} (unknown : r.errCodeKnown ≠ true) :
    r.errorCodeDesc = "Unknown Error Code" :=
  dif_neg fun h => unknown h.1

/-- The run-state description of a decoded record goes by the byte at offset 26 (R118). -/
theorem decodeRecord_runStateDesc {F : Frame} (c : Fin 9) (code : (F.at 26).toNat = c.1) :
    (decodeRecord F).runStateDesc = Config.runStateText c :=
  Record.runStateDesc_of_known ((decodeRecord_runStateKnown_iff F).2 (by omega)) c code

/-- The error-code description of a decoded record goes by the byte at offset 41 (R119). -/
theorem decodeRecord_errorCodeDesc {F : Frame} (c : Fin 11) (code : (F.at 41).toNat = c.1) :
    (decodeRecord F).errorCodeDesc = Config.errorCodeText c :=
  Record.errorCodeDesc_of_known ((decodeRecord_errCodeKnown_iff F).2 (by omega)) c code

/-- Settles O22: a code outside its domain leaves the domain bit 0, so the sentinel stands; a code inside selects its entry,
and the four fixed texts are entries of the two tables. -/
theorem descriptions : Obligations.Descriptions := by
  intro F
  refine ⟨fun h => ?runUnknown, fun h => ?errUnknown, fun h => decodeRecord_runStateDesc 0 (by rw [h]; rfl),
    fun h => decodeRecord_runStateDesc 8 (by rw [h]; rfl), fun h => decodeRecord_errorCodeDesc 0 (by rw [h]; rfl),
    fun h => decodeRecord_errorCodeDesc 10 (by rw [h]; rfl), decodeRecord_runStateDesc, decodeRecord_errorCodeDesc⟩
  case runUnknown =>
    exact Record.runStateDesc_of_unknown (mt (decodeRecord_runStateKnown_iff F).1 (Nat.not_le_of_lt h))
  case errUnknown =>
    exact Record.errorCodeDesc_of_unknown (mt (decodeRecord_errCodeKnown_iff F).1 (Nat.not_le_of_lt h))

end Sys2Proof.Machine
end

section
/-! PROOFS. The decoder sub-block's ports (R137): a driven frame is read back from its bus byte by byte, so the outputs are
those of Decode (R100, R101) on the frame and the length. -/

namespace Sys2Proof.Machine

/-! ### A frame on its bus -/

/-- The first byte of a bus value stands at its least significant end (R137). -/
theorem busByte_busOfBytes_cons_zero (b : Byte) (bs : List Byte) : busByte (busOfBytes (b :: bs)) 0 = b := by
  ext k hk
  have hwide : k < 384 := by omega
  simp [busByte, busOfBytes, hk, hwide]

/-- Each later byte stands one byte above its place in the bus value of the tail, as far as the bus is wide. -/
theorem busByte_busOfBytes_cons_succ (b : Byte) (bs : List Byte) {i : Nat} (hi : i + 1 < 48) :
    busByte (busOfBytes (b :: bs)) (i + 1) = busByte (busOfBytes bs) i := by
  ext k hk
  have hwide : 8 * (i + 1) + k < 384 := by omega
  have hlow : 8 * i + k < 384 := by omega
  have hhigh : ¬ 8 * (i + 1) + k < 8 := by omega
  have hdown : 8 * (i + 1) + k - 8 = 8 * i + k := by omega
  have hclear : b.getLsbD (8 * (i + 1) + k) = false := b.getLsbD_of_ge _ (by omega)
  simp [busByte, busOfBytes, BitVec.getLsbD_eq_getElem hlow, hwide, hhigh, hdown, hclear]

/-- Byte `i` of a bus value is byte `i` of the list it was made of, as far as the bus is wide (R137). -/
theorem busByte_busOfBytes (bs : List Byte) (i : Nat) (hi : i < bs.length) (hwide : i < 48) :
    busByte (busOfBytes bs) i = bs[i] := by
  induction bs generalizing i with
  | nil => simp at hi
  | cons b bs ih =>
    cases i with
    | zero => exact busByte_busOfBytes_cons_zero b bs
    | succ i =>
      rw [busByte_busOfBytes_cons_succ b bs hwide, List.getElem_cons_succ]
      exact ih i (by simpa using hi) (by omega)

/-- The frame read from dec_frame is the frame driven on it (R137). -/
@[simp] theorem Frame.ofBus_toBus (F : Frame) : Frame.ofBus F.toBus = F := by
  refine Frame.ext_at fun i => ?_
  rw [Frame.ofBus_at]
  exact busByte_busOfBytes F.1 i.1 (by simp [F.length_eq]) i.2

/-! ### The outputs -/

/-- A length of 48 gives the record of the frame on the bus (R100, R137). -/
theorem decPorts_length_48 (bus : BitVec 384) :
    decPorts bus 48 = { decOk := true, decLenErr := false, decR := some (decodeRecord (Frame.ofBus bus)) } := rfl

/-- Any other length gives the length error and no record (R101, R137). -/
theorem decPorts_length_ne_48 (bus : BitVec 384) {len : BitVec 6} (h : len ≠ 48) :
    decPorts bus len = { decOk := false, decLenErr := true, decR := none } := by
  have hlen : len.toNat ≠ Config.frameLen := fun heq => h (BitVec.eq_of_toNat_eq heq)
  rw [decPorts, decodeFrame, if_neg hlen]

/-- Settles O16: the sub-block reads back the driven frame, and its outputs go by whether the length is 48 (R137). -/
theorem decoderPortsOfDrivenFrame : Obligations.DecoderPortsOfDrivenFrame := by
  intro F len
  by_cases h : len = 48
  · subst h
    rw [decPorts_length_48, Frame.ofBus_toBus]
    exact ⟨rfl, rfl, rfl⟩
  · rw [decPorts_length_ne_48 _ h]
    exact ⟨(decide_eq_false h).symm, (decide_eq_true h).symm, (if_neg h).symm⟩

end Sys2Proof.Machine
end

section
/-! PROOFS. What one step can report, said once, and from that the entry of a framing error (R157, R95): only a failing check of
the synchronizer reports one, and it writes one cell and discards the frame. -/

namespace Sys2Proof.Machine

/-- The entry of the framing error `e` (R157): from `s` the step goes to `t`. -/
structure State.ErrorEntry (s t : State) (e : Event) : Prop where
  sync : t.syncState = .wait
  len : t.bufLen = 0
  pass : t.passOpen = if e = .ferrCmd then false else s.passOpen
  hadByte : s.stream ≠ []
  stream : t.stream = s.stream.tail
  latest : t.latest = s.latest
  recValid : t.recValid = s.recValid
  decFrame : t.decFrame = s.decFrame
  cells : ∀ a, a ≠ s.bufLen.toNat → Memory.read t.frameBuf a = Memory.read s.frameBuf a

/-- What one step can report. -/
inductive State.Report (s t : State) : Prop where
  /-- The step adds nothing to what the run observes. -/
  | silent (trace : t.trace = s.trace)
  /-- A RECORD event, or the result of an action of the environment. -/
  | other (o : Obs) (trace : t.trace = s.trace ++ [o]) (noError : ∀ e, o = .event e → e.isFramingError = false)
  /-- FERR_CMD or FERR_RESP, with the entry of the error. -/
  | error (e : Event) (trace : t.trace = s.trace ++ [.event e]) (entry : s.ErrorEntry t e)

/-- An operation is selected only by a byte at the head of STREAM (R81). -/
theorem stream_ne_nil_of_byteOp {s : State} {i : Instr} (h : s.byteOp = some i) : s.stream ≠ [] := by
  obtain ⟨b, q, hs, _⟩ := State.byteOp_some h
  simp [hs]

/-- The environment's actions are no part of what an error entry speaks of. -/
theorem State.ErrorEntry.of_inputs {s t : State} {e : Event} {ins : List Input}
    (h : State.ErrorEntry { s with inputs := ins } t e) : s.ErrorEntry t e :=
  { h with }

theorem State.Report.of_inputs {s t : State} {ins : List Input} (h : State.Report { s with inputs := ins } t) :
    s.Report t := by
  cases h with
  | silent trace => exact .silent trace
  | other o trace noError => exact .other o trace noError
  | error e trace entry => exact .error e trace entry.of_inputs

/-- SYNC_CMD_CHECK at BUF_LEN 23 is silent or enters FERR_CMD: its one write is to `FB[23]` (R85). -/
theorem execSyncCmdCheck_report {s t : State} {b : Byte} (hlen : s.bufLen = 23)
    (h : execSyncCmdCheck b s = .next t) : s.Report t := by
  obtain ⟨hop, v, _, ⟨_, rfl⟩ | ⟨_, rfl⟩⟩ := execSyncCmdCheck_next h
  · exact .error .ferrCmd rfl
      { sync := rfl, len := rfl, pass := (if_pos rfl).symm, hadByte := stream_ne_nil_of_byteOp hop, stream := rfl
        latest := rfl, recValid := rfl, decFrame := rfl
        cells := fun a ha => Memory.read_write_other _ _ (by rwa [hlen] at ha) }
  · exact .silent rfl

/-- SYNC_FRAME_CHECK at BUF_LEN 47 reports RECORD or enters FERR_RESP: its one write is to `FB[47]` (R86). -/
theorem execSyncFrameCheck_report {s t : State} {b : Byte} (hlen : s.bufLen = 47)
    (h : execSyncFrameCheck b s = .next t) : s.Report t := by
  obtain ⟨hop, F, _, ⟨_, rfl⟩ | ⟨_, rfl⟩⟩ := execSyncFrameCheck_next h
  · exact .other (.event (.record (decodeRecord F))) rfl (by rintro _ ⟨⟩; rfl)
  · exact .error (.ferrResp _) rfl
      { sync := rfl, len := rfl, pass := (if_neg (by simp)).symm, hadByte := stream_ne_nil_of_byteOp hop, stream := rfl
        latest := rfl, recValid := rfl, decFrame := rfl
        cells := fun a ha => Memory.read_write_other _ _ (by rwa [hlen] at ha) }

theorem exec_byteOp_report {s t : State} {b : Byte}
    (h : exec ((caseOf s.syncState.bit s.bufLen b).instr s.bufLen b) s = .next t) : s.Report t := by
  rcases exec_byteOp_next h with
    ⟨_, _, _, h⟩ | ⟨_, _, _, h⟩ | ⟨_, hlen, h⟩ | ⟨_, hlen, h⟩ | ⟨_, _, h⟩
  · obtain ⟨_, rfl⟩ := execSyncStart_next h
    exact .silent rfl
  · obtain ⟨_, rfl⟩ := execSyncDiscard_next h
    exact .silent rfl
  · exact execSyncCmdCheck_report hlen h
  · exact execSyncFrameCheck_report hlen h
  · obtain ⟨_, rfl⟩ := execSyncAppend_next h
    exact .silent rfl

/-- At an edge only the byte step of an open pass reports anything (R131, R133). -/
theorem edge_report {s t : State} {hc : BitVec 2} (h : s.edge hc = .next t) : s.Report t := by
  rcases edge_cases s hc with
    ⟨f, _, he⟩ | ⟨_, _, he⟩ | ⟨_, _, he⟩ | ⟨_, _, _, he⟩ | ⟨_, _, _, b, q, _, _, he⟩ <;> rw [he] at h
  · cases h
    exact .silent rfl
  · cases h
    exact .silent rfl
  · cases h
    exact .silent rfl
  · cases h
    exact .silent rfl
  · exact exec_byteOp_report h

/-- Every step that answers makes one of the reports. -/
theorem step_report {s t : State} (h : step s = .next t) : s.Report t := by
  rcases step_cases s with ⟨hc, ins, he⟩ | ⟨u, he, _, _, hu⟩ | ⟨_, _, _, _, he⟩ | ⟨_, _, _, _, he⟩ <;> rw [he] at h
  · exact (edge_report h).of_inputs
  · cases h
    obtain htrace | ⟨o, htrace, hlenErr⟩ := hu
    · exact .silent htrace
    · refine .other o htrace fun e ho => ?_
      obtain ⟨n, rfl⟩ := hlenErr e ho
      rfl
  · cases h
  · cases h

/-- A step that reports a framing error enters it: no other report adds one to what the run observes. -/
theorem State.Report.errorEntry {s t : State} {e : Event} (h : s.Report t)
    (reported : t.trace = s.trace ++ [.event e]) (isError : e.isFramingError = true) : s.ErrorEntry t e := by
  cases h with
  | silent trace => simp [trace] at reported
  | other o trace noError =>
    obtain rfl : o = .event e := by simpa [trace] using reported
    simp [noError e rfl] at isError
  | error e' trace entry =>
    obtain rfl : e' = e := by simpa [trace] using reported
    exact entry

/-- Settles O45: what a step reports tells which operation it ran, and a framing error is reported only with its entry. -/
theorem framingErrorEntry : Obligations.FramingErrorEntry := by
  intro s t e h reported isError
  obtain ⟨sync, len, pass, hadByte, stream, latest, recValid, decFrame, cells⟩ :=
    (step_report h).errorEntry reported isError
  exact ⟨sync, len, pass, hadByte, stream, latest, recValid, decFrame, cells⟩

end Sys2Proof.Machine
end

section
/-! PROOFS. The encodings (R64, R65, R71, R72): every selector word has one row, and decoding and encoding are inverse to each
other on every channel. -/

namespace Sys2Proof

/-! ### The operation map -/

/-- The first element of a list that a test accepts stands at one place only: all earlier ones are refused. -/
theorem existsUnique_first {α : Type} {l : List α} {p : α → Bool} {a : α} (h : l.find? p = some a) :
    ∃! n : Nat, (∃ r, l[n]? = some r ∧ p r = true) ∧ ∀ m, m < n → ∀ r, l[m]? = some r → p r = false := by
  obtain ⟨hp, n, hn, rfl, hfirst⟩ := List.find?_eq_some_iff_getElem.mp h
  refine ⟨n, ⟨⟨l[n], List.getElem?_eq_getElem hn, hp⟩, fun m hm r hr => ?_⟩, ?_⟩
  · rw [List.getElem?_eq_getElem (by omega), Option.some.injEq] at hr
    simpa [hr] using hfirst m hm
  · rintro k ⟨⟨r, hr, hpr⟩, hk⟩
    rcases Nat.lt_trichotomy k n with hlt | heq | hgt
    · obtain ⟨hkl, rfl⟩ := List.getElem?_eq_some_iff.mp hr
      simpa [hpr] using hfirst k hlt
    · exact heq
    · simpa [hp] using hk n hgt l[n] (List.getElem?_eq_getElem hn)

/-- Settles O5: some row is found for the word of any three fields, and every word is the word of its fields. -/
theorem everySelectorWordHasOneRow : Obligations.EverySelectorWordHasOneRow := by
  intro w
  have hrow := selectRow_eq (selSync w) (selLen w) (selByte w)
  rw [selectorWord_fields] at hrow
  obtain ⟨row, hfind, _⟩ := Option.map_eq_some_iff.mp hrow
  exact existsUnique_first hfind

/-! ### The selector channel -/

/-- The word of some fields, arriving as a number, decodes to the operation of their case (R64, R65). -/
theorem decodeWord_selectorWord (a : BitVec 1) (l : BitVec 6) (b : Byte) :
    decodeWord .selector (selectorWord a l b).toNat = .ok ((caseOf a l b).instr l b) := by
  rw [decodeWord_selector, decodeSelector_eq]

/-- Row 8 of R65 gets the values of BUF_LEN that the earlier rows of ACC leave. -/
theorem isAppendLen_of_ne {l : BitVec 6} (h0 : l ≠ 0) (hhi : ¬ 48 ≤ l.toNat) (h23 : l ≠ 23) (h47 : l ≠ 47) :
    isAppendLen l = true := by
  revert l
  decide

/-- The operation of a case is well-formed, and its word is the one of the fields that select it. -/
theorem caseOf_instr_encodes (a : BitVec 1) (l : BitVec 6) (b : Byte) :
    ((caseOf a l b).instr l b).wellFormed = true ∧
      encode ((caseOf a l b).instr l b) = (.selector, (selectorWord a l b).toNat) := by
  rcases bit_cases a with rfl | rfl
  · by_cases hl : l = 0#6
    · by_cases hb : b = 0x76#8
      · subst hl hb
        exact ⟨rfl, rfl⟩
      · subst hl
        simp [caseOf, hb, SelOp.instr, Instr.wellFormed, encode, Config.startMarker]
    · simp [caseOf, hl, SelOp.instr, Instr.wellFormed, encode]
  · by_cases hl : l = 0#6
    · subst hl
      exact ⟨rfl, rfl⟩
    by_cases hhi : 48 ≤ l.toNat
    · simp [caseOf, hl, hhi, SelOp.instr, Instr.wellFormed, encode]
    by_cases h23 : l = 23#6
    · subst h23
      exact ⟨rfl, rfl⟩
    by_cases h47 : l = 47#6
    · subst h47
      exact ⟨rfl, rfl⟩
    simp [caseOf, hl, hhi, h23, h47, SelOp.instr, Instr.wellFormed, encode, isAppendLen_of_ne hl hhi h23 h47]

/-! The rows of ACC that leave BUF_LEN free, from their conditions in words (R65). -/

theorem caseOf_of_isAppendLen {l : BitVec 6} (h : isAppendLen l = true) (b : Byte) : caseOf 1 l b = .append := by
  obtain ⟨_, hlo, hhi, h23⟩ := Machine.toNat_succ_of_isAppendLen h
  exact Machine.caseOf_append (by omega) b

theorem caseOf_of_high {l : BitVec 6} (h : 48 ≤ l.toNat) (b : Byte) : caseOf 1 l b = .reservedAhi := by
  have hl : l ≠ 0#6 := by
    rintro rfl
    simp at h
  simp [caseOf, hl, h]

/-! ### Both directions -/

/-- Settles O6: the encoder puts a byte-step operation's operands into the fields of a selector word, whose case is the
operation's own row; the other channels hold one word for each operation. -/
theorem decodeOfEncode : Obligations.DecodeOfEncode := by
  intro i hi
  cases i with
  | syncStart => exact decodeWord_selectorWord 0 0 Config.startMarker
  | syncDiscard b =>
    have hcase : caseOf 0 0 b = .discard := if_neg (bne_iff_ne.mp hi)
    rw [encode, decodeWord_selectorWord, hcase]
    rfl
  | syncReservedW len b =>
    have hcase : caseOf 0 len b = .reservedW := if_neg (bne_iff_ne.mp hi)
    rw [encode, decodeWord_selectorWord, hcase]
    rfl
  | syncReservedA0 b => exact decodeWord_selectorWord 1 0 b
  | syncReservedAhi len b =>
    rw [encode, decodeWord_selectorWord, caseOf_of_high (of_decide_eq_true hi)]
    rfl
  | syncCmdCheck b => exact decodeWord_selectorWord 1 23 b
  | syncFrameCheck b => exact decodeWord_selectorWord 1 47 b
  | syncAppend len b =>
    rw [encode, decodeWord_selectorWord, caseOf_of_isAppendLen hi]
    rfl
  | decode => rfl
  | decodeLenErr n =>
    simp only [Instr.wellFormed, Bool.and_eq_true, bne_iff_ne, decide_eq_true_eq] at hi
    obtain ⟨hne, hlt⟩ := hi
    simp [encode, decodeWord, decodeLength, hne, hlt]
  | reset feed => cases feed <;> rfl
  | feed => rfl
  | readLatest => rfl
  | readStatus => rfl

/-- The length word and the operation it selects stand for each other (R71). -/
theorem decodeLength_encodes {w : Nat} (h : w < 64) :
    (decodeLength w).wellFormed = true ∧ encode (decodeLength w) = (.decLen, w) := by
  unfold decodeLength
  split
  · next hw => exact ⟨rfl, by rw [hw]; rfl⟩
  · next hw => exact ⟨by simpa [Instr.wellFormed, h] using hw, rfl⟩

/-- The strobe word and the operation it invokes stand for each other (R72). -/
theorem decodeStrobe_encodes {hc : BitVec 2} {i : Instr} (h : decodeStrobe hc = .ok i) :
    i.wellFormed = true ∧ encode i = (.strobe, hc.toNat) := by
  rcases Machine.decodeStrobe_cases hc with ⟨rfl, hd⟩ | ⟨rfl, hd⟩ | ⟨rfl, hd⟩ | ⟨rfl, hd⟩ <;> rw [hd] at h
  · cases h
  · cases h
    exact ⟨rfl, rfl⟩
  · cases h
    exact ⟨rfl, rfl⟩
  · cases h
    exact ⟨rfl, rfl⟩

/-- A selector word and the operation it selects stand for each other (R65). -/
theorem decodeSelector_encodes {w : BitVec 15} {i : Instr} (h : decodeSelector w = .ok i) :
    i.wellFormed = true ∧ encode i = (.selector, w.toNat) := by
  rw [← selectorWord_fields w] at h ⊢
  rw [decodeSelector_eq] at h
  obtain rfl := Except.ok.inj h
  exact caseOf_instr_encodes _ _ _

/-- A word decodes only inside the range of its channel. -/
theorem ite_error_eq_ok {p : Prop} [Decidable p] {x : Except DecodeError Instr} {e : DecodeError} {i : Instr} :
    (if p then x else .error e) = .ok i ↔ p ∧ x = .ok i := by
  by_cases hp : p <;> simp [hp]

/-- Settles O7: on each channel a word that decodes is in range, and the operation it names encodes as that very word. -/
theorem encodeOfDecode : Obligations.EncodeOfDecode := by
  intro ch w i h
  cases ch with
  | selector =>
    obtain ⟨hw, h⟩ := ite_error_eq_ok.mp h
    have hnat : (BitVec.ofNat 15 w).toNat = w := Nat.mod_eq_of_lt hw
    simpa only [hnat] using decodeSelector_encodes h
  | decLen =>
    obtain ⟨hw, h⟩ := ite_error_eq_ok.mp h
    obtain rfl := Except.ok.inj h
    exact decodeLength_encodes hw
  | strobe =>
    obtain ⟨hw, h⟩ := ite_error_eq_ok.mp h
    have hnat : (BitVec.ofNat 2 w).toNat = w := Nat.mod_eq_of_lt hw
    simpa only [hnat] using decodeStrobe_encodes h
  | recPorts =>
    obtain ⟨rfl, h⟩ := ite_error_eq_ok.mp h
    obtain rfl := Except.ok.inj h
    exact ⟨rfl, rfl⟩
  | statusPort =>
    obtain ⟨rfl, h⟩ := ite_error_eq_ok.mp h
    obtain rfl := Except.ok.inj h
    exact ⟨rfl, rfl⟩

/-- Settles O4: each word is a selector word of three fields, a length below 64 or a strobe word. -/
theorem writtenWordsDecode : Obligations.WrittenWordsDecode :=
  ⟨rfl, rfl, rfl, rfl, rfl, rfl, rfl, rfl, rfl, rfl⟩

end Sys2Proof
end

section
/-! PROOFS. The effect of a byte step (R81 to R87), said once as a value: which of five things it does to the block depends on
SYNC_STATE, BUF_LEN, the live cells and the byte alone. -/

namespace Sys2Proof.Machine

/-- What a byte step that answers does. -/
inductive ByteEffect where
  /-- SYNC_DISCARD (R83). -/
  | discard
  /-- The byte goes to the cell at BUF_LEN: SYNC_START (R82), SYNC_APPEND (R84), and a command check that passes (R85). -/
  | store
  /-- A command check that fails (R85). -/
  | cmdError
  /-- A frame check that fails, with its cause mask (R86). -/
  | respError (m : BitVec 2)
  /-- A frame check that passes, with the frame's record (R86). -/
  | record (r : Record)

/-- The byte goes to the cell at BUF_LEN. -/
def State.put (s : State) (b : Byte) : State := { s with frameBuf := Memory.write s.frameBuf s.bufLen.toNat b }

/-- The state after a byte step on the byte `b` at the head of STREAM. -/
def ByteEffect.apply (b : Byte) (s : State) : ByteEffect → State
  | .discard => s.consume.quiet
  | .store => (((s.consume.put b).setLen (s.bufLen + 1)).setSync .acc).quiet
  | .cmdError => ((s.consume.put b).framingError .ferrCmd).setPass false
  | .respError m => (s.consume.put b).framingError (.ferrResp m)
  | .record r => (s.consume.put b).emitRecord r

/-- The effect of the command check goes by the cell `FB[21]` (R85). -/
def State.cmdEffect (s : State) : Except Fault ByteEffect := do
  let v ← s.readCell Config.cmdEndOff
  return if cmdMarkerBad v then .cmdError else .store

/-- The effect of the frame check goes by the response markers of the frame (R86). -/
def State.frameEffect (s : State) (b : Byte) : Except Fault ByteEffect := do
  let F ← s.assembleFrame b
  return if causeMask (F.at 24) (F.at 45) = 0 then .record (decodeRecord F)
    else .respError (causeMask (F.at 24) (F.at 45))

/-- The effect of the byte step that the selector word of `b` selects, or its fault. -/
def State.byteEffect (s : State) (b : Byte) : Except Fault ByteEffect :=
  match caseOf s.syncState.bit s.bufLen b with
  | .start => .ok .store
  | .discard => .ok .discard
  | .reservedW => .error (.invariantBroken s.syncState s.bufLen)
  | .reservedA0 => .error (.invariantBroken s.syncState s.bufLen)
  | .reservedAhi => .error (.invariantBroken s.syncState s.bufLen)
  | .cmdCheck => s.cmdEffect
  | .frameCheck => s.frameEffect b
  | .append => .ok .store

/-- What a case says of the fields that select it (R65). -/
theorem caseOf_fields (x : SyncState) (l : BitVec 6) (b : Byte) :
    (x = .wait ∧ l = 0 ∧ b = 0x76 ∧ caseOf x.bit l b = .start) ∨
      (x = .wait ∧ l = 0 ∧ b ≠ 0x76 ∧ caseOf x.bit l b = .discard) ∨
      (x = .wait ∧ l ≠ 0 ∧ caseOf x.bit l b = .reservedW) ∨
      (x = .acc ∧ l = 0 ∧ caseOf x.bit l b = .reservedA0) ∨
      (x = .acc ∧ 48 ≤ l.toNat ∧ caseOf x.bit l b = .reservedAhi) ∨
      (x = .acc ∧ l = 23 ∧ caseOf x.bit l b = .cmdCheck) ∨
      (x = .acc ∧ l = 47 ∧ caseOf x.bit l b = .frameCheck) ∨
      (x = .acc ∧ isAppendLen l = true ∧ caseOf x.bit l b = .append) := by
  cases x with
  | wait =>
    by_cases hl : l = 0
    · subst hl
      by_cases hb : b = 0x76
      · subst hb
        exact .inl ⟨rfl, rfl, rfl, rfl⟩
      · exact .inr (.inl ⟨rfl, rfl, hb, if_neg hb⟩)
    · exact .inr (.inr (.inl ⟨rfl, hl, if_neg hl⟩))
  | acc =>
    refine .inr (.inr (.inr ?_))
    by_cases hl : l = 0
    · subst hl
      exact .inl ⟨rfl, rfl, rfl⟩
    by_cases hhi : 48 ≤ l.toNat
    · exact .inr (.inl ⟨rfl, hhi, caseOf_of_high hhi b⟩)
    by_cases h23 : l = 23
    · subst h23
      exact .inr (.inr (.inl ⟨rfl, rfl, rfl⟩))
    by_cases h47 : l = 47
    · subst h47
      exact .inr (.inr (.inr (.inl ⟨rfl, rfl, rfl⟩)))
    have happ := isAppendLen_of_ne hl hhi h23 h47
    exact .inr (.inr (.inr (.inr ⟨rfl, happ, caseOf_of_isAppendLen happ b⟩)))

/-- A write at BUF_LEN puts the byte. -/
theorem writeCell_bufLen {s : State} {i : Nat} (hlen : s.bufLen.toNat = i) (hi : i < 48) (b : Byte) :
    s.writeCell i b = .ok (s.put b) := by
  subst hlen
  exact writeCell_of_lt s b hi

/-- In ACC a stored byte leaves SYNC_STATE alone (R84, R85). -/
theorem ByteEffect.store_apply_of_acc {s : State} (hacc : s.syncState = .acc) (b : Byte) :
    ByteEffect.store.apply b s = ((s.consume.put b).setLen (s.bufLen + 1)).quiet := by
  cases s
  cases hacc
  rfl

theorem execSyncCmdCheck_effect {s : State} {b : Byte} (hop : s.byteOp = some (.syncCmdCheck b))
    (hacc : s.syncState = .acc) (hlen : s.bufLen = 23) :
    execSyncCmdCheck b s = answer (ByteEffect.apply b s <$> s.cmdEffect) := by
  have hw : s.consume.writeCell 23 b = .ok (s.consume.put b) := writeCell_bufLen (by simp [hlen]) (by decide) b
  have hstore := ByteEffect.store_apply_of_acc hacc b
  rw [hlen] at hstore
  rw [execSyncCmdCheck, whenSelected_of _ hop, hw, State.cmdEffect]
  cases s.readCell Config.cmdEndOff with
  | error f => rfl
  | ok v =>
    simp only [bind, Except.bind, pure, Except.pure, Functor.map, Except.map]
    split
    · rfl
    · rw [hstore]
      rfl

theorem execSyncFrameCheck_effect {s : State} {b : Byte} (hop : s.byteOp = some (.syncFrameCheck b))
    (hlen : s.bufLen = 47) :
    execSyncFrameCheck b s = answer (ByteEffect.apply b s <$> s.frameEffect b) := by
  have hw : s.consume.writeCell 47 b = .ok (s.consume.put b) := writeCell_bufLen (by simp [hlen]) (by decide) b
  rw [execSyncFrameCheck, whenSelected_of _ hop, hw, State.frameEffect]
  cases s.assembleFrame b with
  | error f => rfl
  | ok F =>
    simp only [bind, Except.bind, pure, Except.pure, Functor.map, Except.map]
    split <;> rfl

/-- The selected byte-step operation has the effect of the byte at the head of STREAM, or its fault. -/
theorem exec_selected {s : State} {b : Byte} {q : List Byte} (hs : s.stream = b :: q) :
    exec ((caseOf s.syncState.bit s.bufLen b).instr s.bufLen b) s = answer (ByteEffect.apply b s <$> s.byteEffect b) := by
  have hop := State.byteOp_cons hs
  rcases caseOf_fields s.syncState s.bufLen b with
    ⟨_, hlen, rfl, hc⟩ | ⟨_, _, _, hc⟩ | ⟨_, _, hc⟩ | ⟨_, _, hc⟩ | ⟨_, _, hc⟩ | ⟨hacc, hlen, hc⟩ | ⟨_, hlen, hc⟩ |
      ⟨hacc, happ, hc⟩ <;>
    rw [hc] at hop <;> simp only [State.byteEffect, hc]
  · have hw : s.consume.writeCell 0 Config.startMarker = .ok (s.consume.put 0x76) :=
      writeCell_bufLen (by simp [hlen]) (by decide) _
    refine (whenSelected_of _ hop).trans ?_
    rw [hw]
    simp only [Functor.map, Except.map, ByteEffect.apply, hlen]
    rfl
  · exact whenSelected_of _ hop
  · rfl
  · rfl
  · rfl
  · exact execSyncCmdCheck_effect hop hacc hlen
  · exact execSyncFrameCheck_effect hop hlen
  · obtain ⟨_, _, hhi, _⟩ := toNat_succ_of_isAppendLen happ
    have hw : s.consume.writeCell s.bufLen.toNat b = .ok (s.consume.put b) := 
      writeCell_bufLen (s := s.consume) rfl (Nat.lt_of_le_of_lt hhi (by decide)) b
    refine (whenSelected_of _ hop).trans ?_
    rw [hw]
    simp only [Functor.map, Except.map, ByteEffect.store_apply_of_acc hacc]
    rfl

/-! ### When a byte step has which effect -/

/-- The states and bytes in which a byte step answers, with its effect. -/
inductive State.Effects (s : State) (b : Byte) : ByteEffect → Prop where
  | start (waits : s.Waits) (marker : b = 0x76) : s.Effects b .store
  | discard (waits : s.Waits) (noMarker : b ≠ 0x76) : s.Effects b .discard
  | append (acc : s.syncState = .acc) (appends : isAppendLen s.bufLen = true) : s.Effects b .store
  | cmdPass (acc : s.syncState = .acc) (len : s.bufLen = 23) (v : Byte) (cell : Memory.read s.frameBuf 21 = some v)
      (good : v ≠ 0) : s.Effects b .store
  | cmdFail (acc : s.syncState = .acc) (len : s.bufLen = 23) (cell : Memory.read s.frameBuf 21 = some 0) :
      s.Effects b .cmdError
  | framePass (acc : s.syncState = .acc) (len : s.bufLen = 47) (F : Frame) (frame : s.assembleFrame b = .ok F)
      (good : causeMask (F.at 24) (F.at 45) = 0) : s.Effects b (.record (decodeRecord F))
  | frameFail (acc : s.syncState = .acc) (len : s.bufLen = 47) (F : Frame) (frame : s.assembleFrame b = .ok F)
      (bad : causeMask (F.at 24) (F.at 45) ≠ 0) : s.Effects b (.respError (causeMask (F.at 24) (F.at 45)))

theorem cmdMarkerBad_iff (v : Byte) : cmdMarkerBad v = true ↔ v = 0 := by simp [cmdMarkerBad, Config.cmdEndBad]

theorem cmdEffect_ok {s : State} {e : ByteEffect} :
    s.cmdEffect = .ok e ↔
      ∃ v, Memory.read s.frameBuf 21 = some v ∧ e = if v = 0 then .cmdError else .store := by
  simp only [State.cmdEffect, bind_ok, readCell_ok, cmdMarkerBad_iff, pure, Except.pure, Except.ok.injEq, eq_comm (b := e)]
  exact ⟨fun ⟨v, ⟨_, hv⟩, he⟩ => ⟨v, hv, he⟩, fun ⟨v, hv, he⟩ => ⟨v, ⟨by decide, hv⟩, he⟩⟩

theorem frameEffect_ok {s : State} {b : Byte} {e : ByteEffect} :
    s.frameEffect b = .ok e ↔
      ∃ F, s.assembleFrame b = .ok F ∧
        e = if causeMask (F.at 24) (F.at 45) = 0 then .record (decodeRecord F)
          else .respError (causeMask (F.at 24) (F.at 45)) := by
  simp only [State.frameEffect, bind_ok, pure, Except.pure, Except.ok.injEq, eq_comm (b := e)]

/-- A byte step has an effect in exactly these cases. -/
theorem byteEffect_ok {s : State} {b : Byte} {e : ByteEffect} : s.byteEffect b = .ok e ↔ s.Effects b e := by
  constructor
  · intro h
    rcases caseOf_fields s.syncState s.bufLen b with
      ⟨hw, hlen, hb, hc⟩ | ⟨hw, hlen, hb, hc⟩ | ⟨_, _, hc⟩ | ⟨_, _, hc⟩ | ⟨_, _, hc⟩ | ⟨hacc, hlen, hc⟩ |
        ⟨hacc, hlen, hc⟩ | ⟨hacc, happ, hc⟩ <;>
      simp only [State.byteEffect, hc] at h
    · cases h
      exact .start ⟨hw, hlen⟩ hb
    · cases h
      exact .discard ⟨hw, hlen⟩ hb
    · cases h
    · cases h
    · cases h
    · obtain ⟨v, hv, rfl⟩ := cmdEffect_ok.mp h
      split
      · next h0 => exact .cmdFail hacc hlen (h0 ▸ hv)
      · next h0 => exact .cmdPass hacc hlen v hv h0
    · obtain ⟨F, hF, rfl⟩ := frameEffect_ok.mp h
      split
      · next hm => exact .framePass hacc hlen F hF hm
      · next hm => exact .frameFail hacc hlen F hF hm
    · cases h
      exact .append hacc happ
  · intro h
    unfold State.byteEffect
    cases h with
    | start waits marker => rw [waits.sync, waits.len, marker]; rfl
    | discard waits noMarker =>
      rw [waits.sync, waits.len, show caseOf SyncState.wait.bit 0 b = .discard from if_neg noMarker]
    | append acc appends => rw [acc, show caseOf SyncState.acc.bit s.bufLen b = .append from caseOf_of_isAppendLen appends b]
    | cmdPass acc len v cell good =>
      rw [acc, len]
      exact cmdEffect_ok.mpr ⟨v, cell, (if_neg good).symm⟩
    | cmdFail acc len cell =>
      rw [acc, len]
      exact cmdEffect_ok.mpr ⟨0, cell, rfl⟩
    | framePass acc len F frame good =>
      rw [acc, len]
      exact frameEffect_ok.mpr ⟨F, frame, (if_pos good).symm⟩
    | frameFail acc len F frame bad =>
      rw [acc, len]
      exact frameEffect_ok.mpr ⟨F, frame, (if_neg bad).symm⟩

/-! ### What a byte step reads: SYNC_STATE, BUF_LEN and the live cells -/

theorem readCell_congr {s u : State} {i : Nat} (h : Memory.read s.frameBuf i = Memory.read u.frameBuf i) :
    s.readCell i = u.readCell i := by
  rw [State.readCell, State.readCell, h]

theorem readCells_congr {s u : State} (n : Nat)
    (h : ∀ i, i < n → Memory.read s.frameBuf i = Memory.read u.frameBuf i) : s.readCells n = u.readCells n := by
  induction n with
  | zero => rfl
  | succ n ih =>
    rw [State.readCells, State.readCells, ih fun i hi => h i (by omega), readCell_congr (h n (by omega))]

theorem assembleFrame_congr {s u : State} (b : Byte)
    (h : ∀ i, i < 47 → Memory.read s.frameBuf i = Memory.read u.frameBuf i) :
    s.assembleFrame b = u.assembleFrame b := by
  have hread := readCells_congr 47 h
  unfold State.assembleFrame
  rw [hread]

/-- A byte step reads no dead cell, and of the rest of the state only SYNC_STATE and BUF_LEN (R28, R56). -/
theorem byteEffect_congr {s u : State} (hsync : s.syncState = u.syncState) (hlen : s.bufLen = u.bufLen)
    (hcells : ∀ i, i < s.bufLen.toNat → Memory.read s.frameBuf i = Memory.read u.frameBuf i) (b : Byte) :
    s.byteEffect b = u.byteEffect b := by
  unfold State.byteEffect
  rcases caseOf_fields s.syncState s.bufLen b with
    ⟨_, _, _, hc⟩ | ⟨_, _, _, hc⟩ | ⟨_, _, hc⟩ | ⟨_, _, hc⟩ | ⟨_, _, hc⟩ | ⟨_, h23, hc⟩ | ⟨_, h47, hc⟩ | ⟨_, _, hc⟩ <;>
    rw [← hsync, ← hlen, hc]
  · rw [h23] at hcells
    simp only [State.cmdEffect, readCell_congr (hcells Config.cmdEndOff (by decide))]
  · rw [h47] at hcells
    simp only [State.frameEffect, assembleFrame_congr b hcells]

/-- Two states with the same SYNC_STATE, BUF_LEN and FRAME_BUF have the same effects. -/
theorem State.Effects.congr {s u : State} {b : Byte} {e : ByteEffect} (h : s.Effects b e)
    (hsync : u.syncState = s.syncState) (hlen : u.bufLen = s.bufLen) (hbuf : u.frameBuf = s.frameBuf) :
    u.Effects b e :=
  byteEffect_ok.mp ((byteEffect_congr hsync hlen (fun _ _ => by rw [hbuf]) b).trans (byteEffect_ok.mpr h))

end Sys2Proof.Machine
end

section
/-! PROOFS. The clock edge (R131 to R134): one equation for each of its cases, everything an edge that answers can lead to, and
from that the handshake, pass control and event output. -/

namespace Sys2Proof.Machine

/-! ### What an effect does to the registers, STREAM and the observations -/

/-- The event of an effect. -/
def ByteEffect.event : ByteEffect → Option Event
  | .discard => none
  | .store => none
  | .cmdError => some .ferrCmd
  | .respError m => some (.ferrResp m)
  | .record r => some (.record r)

section
variable (e : ByteEffect) (b : Byte) (s : State)

@[simp] theorem ByteEffect.apply_stream : (e.apply b s).stream = s.stream.tail := by cases e <;> rfl
@[simp] theorem ByteEffect.apply_inputs : (e.apply b s).inputs = s.inputs := by cases e <;> rfl

theorem ByteEffect.apply_trace : (e.apply b s).trace = s.trace ++ (e.event.map Obs.event).toList := by
  cases e with
  | discard => exact (List.append_nil _).symm
  | store => exact (List.append_nil _).symm
  | cmdError => rfl
  | respError m => rfl
  | record r => rfl

/-- Only a failing command check ends the pass (R85, R133). -/
theorem ByteEffect.apply_passOpen :
    (e.apply b s).passOpen = if e.event = some .ferrCmd then false else s.passOpen := by
  cases e <;> simp [ByteEffect.event, ByteEffect.apply, State.put]

/-- A byte is held back only during a pass (log 9). -/
theorem ByteEffect.apply_heldBack :
    (e.apply b s).heldBack = if e.event = some .ferrCmd then 0 else s.heldBack := by
  cases e <;> simp [ByteEffect.event, ByteEffect.apply, State.put]

end

/-! ### One equation for each case of an edge -/

/-- The state after RESET (R140). -/
def State.afterReset (s : State) : State := (({ s.toWait with recValid := false }.setPass false).forget).quiet

theorem exec_reset (s : State) (f : Bool) : exec (.reset f) s = .next s.afterReset := rfl

theorem edge_rst {hc : BitVec 2} (hb : hc.getLsbD 1 = true) (s : State) : s.edge hc = .next s.afterReset := by
  have h : hc = 2 ∨ hc = 3 := by revert hc; decide
  obtain rfl | rfl := h
  · rfl
  · rfl

theorem edge_feed {s : State} {hc : BitVec 2} (hb : hc.getLsbD 1 = false) (hf : hc.getLsbD 0 = true)
    (hp : s.passOpen = false) : s.edge hc = .next (s.setPass true).quiet := by
  obtain rfl : hc = 1 := by revert hc; decide
  show s.doMove (if s.passOpen = true then s.byteMove else .run .feed) = _
  rw [hp]
  rfl

theorem edge_idle {s : State} {hc : BitVec 2} (hb : hc.getLsbD 1 = false) (hf : hc.getLsbD 0 = false)
    (hp : s.passOpen = false) : s.edge hc = .next s.idle := by
  obtain rfl : hc = 0 := by revert hc; decide
  show s.doMove (if s.passOpen = true then s.byteMove else .idle) = _
  rw [hp]
  rfl

/-- With a pass open and a byte available to it, an edge without rst has that byte's effect. -/
theorem edge_byte {s : State} {hc : BitVec 2} (hb : hc.getLsbD 1 = false) (hp : s.passOpen = true)
    (hv : s.inValid = true) :
    ∃ b q, s.stream = b :: q ∧ s.edge hc = answer (ByteEffect.apply b s <$> s.byteEffect b) := by
  obtain ⟨b, q, hs, he⟩ := edge_with_byte hb hp hv
  exact ⟨b, q, hs, he.trans (exec_selected hs)⟩

theorem answer_map_next {s t : State} {b : Byte} {x : Except Fault ByteEffect} :
    answer (ByteEffect.apply b s <$> x) = .next t ↔ ∃ e, x = .ok e ∧ t = e.apply b s := by
  cases x with
  | error f => simp [answer, Functor.map, Except.map]
  | ok e => simp [answer, Functor.map, Except.map, eq_comm]

/-- The states that an edge with strobes `hc` can lead to. -/
inductive State.EdgeTo (s : State) (hc : BitVec 2) : State → Prop where
  | reset (rst : hc.getLsbD 1 = true) : s.EdgeTo hc s.afterReset
  | feed (noRst : hc.getLsbD 1 = false) (strobe : hc.getLsbD 0 = true) (closed : s.passOpen = false) :
      s.EdgeTo hc (s.setPass true).quiet
  | idle (noRst : hc.getLsbD 1 = false) (noStrobe : hc.getLsbD 0 = false) (closed : s.passOpen = false) :
      s.EdgeTo hc s.idle
  | close (noRst : hc.getLsbD 1 = false) (opened : s.passOpen = true) (noByte : s.inValid = false) :
      s.EdgeTo hc s.closePass
  | byte (noRst : hc.getLsbD 1 = false) (opened : s.passOpen = true) (valid : s.inValid = true) (b : Byte)
      (q : List Byte) (stream : s.stream = b :: q) (e : ByteEffect) (effect : s.Effects b e) : s.EdgeTo hc (e.apply b s)

/-- Every edge that answers leads to one of them. -/
theorem edge_next {s t : State} {hc : BitVec 2} (h : s.edge hc = .next t) : s.EdgeTo hc t := by
  cases hb : hc.getLsbD 1 with
  | true =>
    rw [edge_rst hb] at h
    cases h
    exact .reset hb
  | false =>
    cases hp : s.passOpen with
    | false =>
      cases hf : hc.getLsbD 0 with
      | true =>
        rw [edge_feed hb hf hp] at h
        cases h
        exact .feed hb hf hp
      | false =>
        rw [edge_idle hb hf hp] at h
        cases h
        exact .idle hb hf hp
    | true =>
      cases hv : s.inValid with
      | false =>
        rw [edge_without_byte hb hp hv] at h
        cases h
        exact .close hb hp hv
      | true =>
        obtain ⟨b, q, hs, he⟩ := edge_byte hb hp hv
        obtain ⟨e, heff, rfl⟩ := answer_map_next.mp (he.symm.trans h)
        exact .byte hb hp hv b q hs e (byteEffect_ok.mp heff)

/-! ### The statements about one edge -/

/-- Settles O33: only the byte of an open pass is taken. -/
theorem oneByteTakenPerEdge : Obligations.OneByteTakenPerEdge := by
  intro s t hc h
  cases edge_next h with
  | reset rst => simp [State.portsOut, State.afterReset, rst]
  | feed noRst strobe closed => simp [State.portsOut, closed]
  | idle noRst noStrobe closed => simp [State.portsOut, closed]
  | close noRst opened noByte => simp [noByte]
  | byte noRst opened valid b q stream e effect => simp only [State.portsOut, noRst, opened, valid, e.apply_stream,
      Bool.not_false, Bool.and_self, and_self, if_true]

/-- Settles O34: FEED opens a pass; only its end for want of a byte and a failing command check close it. -/
theorem passControl : Obligations.PassControl := by
  intro s t hc hb h
  cases edge_next h with
  | reset rst => exact absurd (hb.symm.trans rst) (by decide)
  | feed noRst strobe closed =>
    rw [strobe]
    simp [closed]
  | idle noRst noStrobe closed =>
    rw [noStrobe]
    simp [closed]
  | close noRst opened noByte => simp [opened, noByte]
  | byte noRst opened valid b q stream e effect =>
    rw [e.apply_passOpen, e.apply_trace]
    cases e <;> simp [opened, valid, ByteEffect.event]

/-- Settles O35: an effect with an event emits it, and everything else shows no event. -/
theorem eventOutputAtEveryEdge : Obligations.EventOutputAtEveryEdge := by
  intro s t hc h
  cases edge_next h with
  | reset rst => exact .inl ⟨rfl, rfl, rfl⟩
  | feed noRst strobe closed => exact .inl ⟨rfl, rfl, rfl⟩
  | idle noRst noStrobe closed => exact .inl ⟨rfl, rfl, rfl⟩
  | close noRst opened noByte => exact .inl ⟨rfl, rfl, rfl⟩
  | byte noRst opened valid b q stream e effect =>
    cases e with
    | discard => exact .inl ⟨rfl, rfl, rfl⟩
    | store => exact .inl ⟨rfl, rfl, rfl⟩
    | cmdError => exact .inr ⟨_, rfl, rfl, rfl⟩
    | respError m => exact .inr ⟨_, rfl, rfl, rfl⟩
    | record r => exact .inr ⟨_, rfl, rfl, rfl⟩

end Sys2Proof.Machine
end

section
/-! PROOFS. Single operations: what each next action makes of a step, and the results of the host operations, of the command
check and of the reserved cases. -/

namespace Sys2Proof.Machine

/-! ### Steps on bytes -/

/-- Settles O1: all these actions are an edge without rst, and `decodeWord` reads the selector word as the edge does. -/
theorem stepRunsByteOperation : Obligations.StepRunsByteOperation := by
  intro s b q i hp hv hs hi
  rw [decodeWord_selectorWord, Except.ok.injEq] at hi
  have hedge (ins : List Input) (hc : BitVec 2) (hb : hc.getLsbD 1 = false) :
      ({ s with inputs := ins } : State).edge hc = exec i { s with inputs := ins } := by
    obtain ⟨b', q', hs', he⟩ := edge_with_byte (s := { s with inputs := ins }) hb hp hv
    obtain ⟨rfl, rfl⟩ := List.cons_eq_cons.mp (hs.symm.trans hs')
    rw [he, ← hi]
  have hedge0 : s.edge 0 = exec i s := hedge s.inputs 0 rfl
  refine ⟨fun hin => ?_, fun rest hin => ?_, fun rest hin => ?_, fun hc rest hin hb => ?_⟩
  · rw [step_no_action hin, hedge0]
  · rw [step_await_open hin hp, hedge0]
  · rw [step_drain_open hin hp, hedge0]
  · rw [step_edge hin, hedge rest hc hb]

/-- Settles O3: all these actions are an edge without rst. -/
theorem passEndsWithoutByte : Obligations.PassEndsWithoutByte := by
  intro s hp hv
  refine ⟨fun hin => ?_, fun rest hin => ?_, fun hc rest hin hb => ?_⟩
  · rw [step_no_action hin, edge_without_byte rfl hp hv]
    rfl
  · have hstep : step s = s.edge 0 := hin.elim (step_await_open · hp) (step_drain_open · hp)
    rw [hstep, edge_without_byte rfl hp hv]
    rfl
  · exact (step_edge hin).trans (edge_without_byte hb hp hv)

/-- Settles O13: these fields select a reserved row of the operation map. -/
theorem reservedSelectorsFault : Obligations.ReservedSelectorsFault := by
  refine ⟨fun s len b => ⟨rfl, rfl, rfl⟩, fun s b q hp hv hin hs hres => ?_⟩
  obtain ⟨b', q', hs', he⟩ := edge_with_byte (hc := 0) rfl hp hv
  obtain ⟨rfl, rfl⟩ := List.cons_eq_cons.mp (hs.symm.trans hs')
  rw [step_no_action hin, he]
  obtain ⟨hw, hlen⟩ | ⟨hacc, hlen | hlen⟩ := hres
  · rw [show caseOf s.syncState.bit s.bufLen b = .reservedW by rw [hw]; exact if_neg hlen]
    rfl
  · rw [show caseOf s.syncState.bit s.bufLen b = .reservedA0 by rw [hacc, hlen]; rfl]
    rfl
  · rw [show caseOf s.syncState.bit s.bufLen b = .reservedAhi by rw [hacc]; exact caseOf_of_high hlen b]
    rfl

/-- Settles O11: `FB[21]` decides between the two outcomes, and the one write is to `FB[23]`. -/
theorem syncCmdCheckResult : Obligations.SyncCmdCheckResult := by
  intro s b v q hacc hlen hs hv
  obtain ⟨t, ht⟩ := execSyncCmdCheck_answers (byteOp_cmdCheck hacc hlen hs) hv
  obtain ⟨_, w, hw, hcases⟩ := execSyncCmdCheck_next ht
  obtain rfl : v = w := Option.some.inj (hv.symm.trans hw)
  rw [hs] at hcases
  obtain ⟨h0, rfl⟩ | ⟨h0, rfl⟩ := hcases
  · exact ⟨_, ht, .of_write rfl, (if_pos h0).symm⟩
  · exact ⟨_, ht, .of_write rfl, (if_neg h0).symm⟩

/-! ### Steps on the host's actions -/

/-- The strobes of an edge as a word (R72). -/
theorem decodeWord_strobe (hc : BitVec 2) : decodeWord .strobe hc.toNat = decodeStrobe hc := by
  simp [decodeWord, hc.isLt]

/-- An edge runs the operation its strobes name: RESET at any time, FEED while no pass is open (R131, R133). -/
theorem edge_strobe {s : State} {hc : BitVec 2} {i : Instr} (h : decodeStrobe hc = .ok i)
    (hfree : (∃ f, i = .reset f) ∨ s.passOpen = false) : s.edge hc = exec i s := by
  obtain ⟨f, rfl⟩ | hp := hfree
  · simp only [State.edge, State.edgeMove, h, State.doMove]
  · have hop (j : Instr) (hj : decodeStrobe hc = .ok j) (hm : s.edge hc = exec j s) : s.edge hc = exec i s := by
      rw [hm, Except.ok.inj (hj.symm.trans h)]
    rcases decodeStrobe_cases hc with ⟨_, hd⟩ | ⟨rfl, hd⟩ | ⟨rfl, hd⟩ | ⟨rfl, hd⟩
    · cases hd.symm.trans h
    · exact hop _ hd (edge_feed rfl rfl hp)
    · exact hop _ hd rfl
    · exact hop _ hd rfl

/-- Settles O2: each of these actions hands its word to the decoder and runs what it names. -/
theorem stepRunsHostOperation : Obligations.StepRunsHostOperation := by
  refine fun s rest i => ⟨fun hc f hin hi hf => ?_, fun hc hin hp hi => ?_, fun w hin hi => ?_, fun n hin => ?_,
    fun hin hi => ?_, fun hin hi => ?_⟩
  · exact (step_edge hin).trans (edge_strobe ((decodeWord_strobe hc).symm.trans hi) (.inl ⟨f, hf⟩))
  · exact (step_edge hin).trans (edge_strobe ((decodeWord_strobe hc).symm.trans hi) (.inr hp))
  · simp only [step, State.act, hin, State.presentLength, hi]
  · simp only [step, State.act, hin]
  · obtain rfl := Except.ok.inj hi
    simp only [step, State.act, hin]
  · obtain rfl := Except.ok.inj hi
    simp only [step, State.act, hin]

/-- A step at an edge with rst is RESET (R131). -/
theorem step_rst {s : State} {hc : BitVec 2} {rest : List Input} (h : s.inputs = .edge hc :: rest)
    (hb : hc.getLsbD 1 = true) : step s = .next (State.afterReset { s with inputs := rest }) := by
  rw [step_edge h, edge_rst hb]

/-- Settles O26: an edge with rst is RESET whatever else is the case. -/
theorem resetHasPriority : Obligations.ResetHasPriority := fun _ _ _ hin hb =>
  ⟨step_rst hin hb, _, step_rst hin hb, rfl, rfl, rfl, rfl⟩

theorem State.afterReset_status (s : State) : s.afterReset.status = 0 := by
  show BitVec.ofBool false ++ SyncState.wait.bit ++ (0 : BitVec 6) = 0
  decide

/-- Settles O24: RESET writes each of these registers, and no field is readable while REC_VALID is 0. -/
theorem resetResult : Obligations.ResetResult := fun s f =>
  ⟨s.afterReset, exec_reset s f, rfl, rfl, rfl, rfl, s.afterReset_status, rfl, rfl, rfl, fun _ => rfl, fun _ => rfl,
    rfl, rfl, rfl, rfl, rfl⟩

/-- Settles O25: the values are those of R32, and no field is readable while REC_VALID is 0. -/
theorem resetStateValues : Obligations.ResetStateValues :=
  ⟨rfl, rfl, rfl, rfl, rfl, rfl, rfl, rfl, fun _ => rfl, Memory.read_nil⟩

/-- Settles O27: FEED sets PASS_OPEN and shows no event. -/
theorem feedOpensPass : Obligations.FeedOpensPass := fun _ _ => rfl

/-- Settles O28: READ_LATEST only observes. -/
theorem readLatestResult : Obligations.ReadLatestResult := fun _ => rfl

/-- A concatenation as a number. -/
theorem toNat_append_eq_add {m n : Nat} (x : BitVec m) (y : BitVec n) : (x ++ y).toNat = 2 ^ n * x.toNat + y.toNat := by
  rw [BitVec.toNat_append, Nat.shiftLeft_eq, Nat.mul_comm, Nat.two_pow_add_eq_or_of_lt y.isLt]

theorem SyncState.bit_toNat (x : SyncState) : x.bit.toNat = if x = .acc then 1 else 0 := by cases x <;> rfl

/-- Settles O29: the status word is REC_VALID, SYNC_STATE and BUF_LEN side by side (R31). -/
theorem readStatusResult : Obligations.ReadStatusResult := by
  intro s
  refine ⟨s.status, rfl, ?_, ?_, BitVec.extractLsb'_append_eq_right, ?_⟩
  · rw [State.status, BitVec.getLsbD_append, if_neg (by decide), BitVec.getLsbD_append]
    simp
  · rw [State.status, BitVec.getLsbD_append, if_neg (by decide), BitVec.getLsbD_append, if_pos (by decide)]
    cases s.syncState <;> decide
  · rw [State.status, toNat_append_eq_add, toNat_append_eq_add, SyncState.bit_toNat, BitVec.toNat_ofBool]
    cases s.recValid <;> split <;> simp

/-- Settles O30: sampling a port gives the field, or faults. -/
theorem fieldReadNeedsValidRecord : Obligations.FieldReadNeedsValidRecord := by
  intro s f rest hin
  simp only [step, State.act, hin, State.sampleField, State.readField]
  by_cases hv : s.recValid = true
  · simp [hv, State.observe]
  · simp [hv]

/-- Settles O31: a push writes STREAM and counts the bytes held back. -/
theorem pushAppendsAtTail : Obligations.PushAppendsAtTail := by
  refine fun s bs rest => ⟨fun hin => ?_, fun hin => ?_⟩
  · rw [step_push hin]
    simp [State.push]
  · rw [step_pushLate hin]
    simp [State.push]

/-- A run goes on from the state its first step answers. -/
theorem core_run_succ {s u : State} (h : step s = .next u) (n : Nat) : core.run (n + 1) s = core.run n u := by
  have hstep : core.step s = .next u := h
  simp only [Host.Core.run, hstep]

/-- With no pass open and no action left, a step is an idle edge (log 1). -/
theorem step_stalled {s : State} (hp : s.passOpen = false) (hin : s.inputs = []) : step s = .next s.idle := by
  rw [step_no_action hin, edge_idle rfl rfl hp]

/-- Settles O32: each step is an idle edge, and a second one changes nothing more. -/
theorem stallChangesNothing : Obligations.StallChangesNothing := by
  intro s n hp hin
  have hrun (k : Nat) : core.run k s.idle = .next s.idle := by
    induction k with
    | zero => rfl
    | succ k ih => exact (core_run_succ (step_stalled (s := s.idle) hp hin) k).trans ih
  exact (core_run_succ (step_stalled hp hin) n).trans (hrun n)

/-- Settles O15: any other length than 48 is a length error, wherever it is given. -/
theorem decodeLenErrResult : Obligations.DecodeLenErrResult := by
  intro n hn
  have hlength : decodeLength n = .decodeLenErr n := if_neg hn
  refine ⟨fun F => if_neg hn, rfl, fun s => rfl, fun s rest hin => ?_, fun s rest hin hlt => ?_⟩
  · simp only [step, State.act, hin, hlength]
    rfl
  · simp only [step, State.act, hin, State.presentLength, decodeWord, if_pos (show n < 2 ^ 6 from hlt), hlength]
    rfl

end Sys2Proof.Machine
end

section
/-! PROOFS. Values: byte sequences and 16-bit assembly (R100 to R102), the fixed-point scaler (R105), the ignored offsets (R50),
the event codes (R70), and the frame that a FRAME statement names (R74). -/

namespace Sys2Proof.Machine

/-! ### Decode and assembly -/

/-- Settles O17: Decode branches on the length alone. -/
theorem decodeOfByteSequence : Obligations.DecodeOfByteSequence :=
  ⟨fun F => ⟨dif_pos F.2, rfl⟩, fun _ h => dif_neg h⟩

/-- Settles O18: a concatenation has its high part 256 times. -/
theorem bigEndianAssembly : Obligations.BigEndianAssembly := fun hi lo =>
  ⟨be16_eq_append hi lo, (congrArg BitVec.toNat (be16_eq_append hi lo)).trans (toNat_append_eq_add hi lo)⟩

/-- Settles O23: the record and the validity are made of the bytes at these offsets. -/
theorem ignoredOffsetsDoNotMatter : Obligations.IgnoredOffsetsDoNotMatter := by
  intro F G h
  have hcmd (i : Fin 24) (hi : i.1 = 3 ∨ i.1 = 4) : F.at (cmdOff i) = G.at (cmdOff i) :=
    h _ (.inl (by rcases hi with hi | hi <;> simp [cmdOff, hi]))
  have hresp (r : Fin 24) (hr : 2 ≤ r.1 ∧ r.1 ≤ 17) : F.at (respOff r) = G.at (respOff r) :=
    h _ (.inr (by simp only [respOff]; omega))
  have hresp16 (r : Fin 23) (hr : 2 ≤ r.1 ∧ r.1 ≤ 16) : F.resp16 r = G.resp16 r := by
    rw [F.resp16_eq_append, G.resp16_eq_append, hresp r.castSucc (by simp; omega), hresp r.succ (by simp; omega)]
  refine ⟨?_, ?_⟩
  · simp only [decodeRecord, hcmd 3 (by decide), hcmd 4 (by decide), hresp 2 (by decide), hresp 3 (by decide),
      hresp16 4 (by decide), hresp16 6 (by decide), hresp16 8 (by decide), hresp16 10 (by decide),
      hresp16 12 (by decide), hresp16 14 (by decide), hresp 16 (by decide), hresp 17 (by decide)]
  · simp only [Frame.valid, h 0 (by decide), h 21 (by decide), h 24 (by decide), h 45 (by decide)]

/-! ### The scaler -/

theorem scale_mul_pow (raw k : Nat) : scale raw k * ((10 ^ k : Nat) : Rat) = raw :=
  div_mul_cancel₀ _ (by positivity)

theorem length_fracDigits (k v : Nat) : (fracDigits k v).length = k := by
  induction k generalizing v with
  | zero => rfl
  | succ k ih => rw [fracDigits, List.length_append, ih, List.length_singleton]

/-- A digit's character is one of `'0'` to `'9'`, and its distance from `'0'` is the digit. -/
theorem digitChar_of_lt_ten {d : Nat} (h : d < 10) :
    ('0' ≤ Nat.digitChar d ∧ Nat.digitChar d ≤ '9') ∧ (Nat.digitChar d).toNat - 48 = d := by
  revert d
  decide

theorem fracDigits_isDigit (k v : Nat) : ∀ c ∈ fracDigits k v, '0' ≤ c ∧ c ≤ '9' := by
  induction k generalizing v with
  | zero => simp [fracDigits]
  | succ k ih =>
    intro c hc
    rw [fracDigits, List.mem_append, List.mem_singleton] at hc
    obtain hc | rfl := hc
    · exact ih _ c hc
    · exact (digitChar_of_lt_ten (Nat.mod_lt _ (by decide))).1

/-- The `k` digits of `v` are worth `v mod 10^k` (R105). -/
theorem fracDigits_value (k v : Nat) :
    (fracDigits k v).foldl (fun n c => 10 * n + (c.toNat - 48)) 0 = v % 10 ^ k := by
  induction k generalizing v with
  | zero => simp [fracDigits, Nat.mod_one]
  | succ k ih =>
    have hdigit := (digitChar_of_lt_ten (Nat.mod_lt v (show 0 < 10 by decide))).2
    rw [fracDigits, List.foldl_append, ih, List.foldl_cons, List.foldl_nil, hdigit, Nat.pow_succ', Nat.mod_mul,
      Nat.add_comm]

/-- Settles O20: the scaler divides exactly, and the rendering's fraction is `k` digits worth the remainder. -/
theorem scalerIsExact : Obligations.ScalerIsExact := fun raw k =>
  ⟨scale_mul_pow raw k, _, _, rfl, rfl, rfl, length_fracDigits k _, fracDigits_isDigit k _,
    (fracDigits_value k _).trans (Nat.mod_mod _ _)⟩

theorem zext16_toNat (b : Byte) : (zext16 b).toNat = b.toNat :=
  BitVec.toNat_setWidth_of_le (by decide)

/-- A field scaled by `10^k` is its raw value over `10^k` (R105). -/
theorem Record.value_mul_pow (r : Record) (f : RecField) :
    r.value f * ((10 ^ f.scaleExp.getD 0 : Nat) : Rat) = (r.field f).toNat :=
  scale_mul_pow _ _

/-- An unscaled field is its raw value (R105). -/
theorem Record.value_of_unscaled (r : Record) {f : RecField} (h : f.scaleExp = none) : r.value f = (r.field f).toNat := by
  simpa [h] using r.value_mul_pow f

/-- Settles O21: each field is scaled by its own constant, and a byte field is worth its byte. -/
theorem fieldValues : Obligations.FieldValues := by
  intro r
  have hbyte (f : RecField) (b : Byte) (hf : f.scaleExp = none) (hb : r.field f = zext16 b) : r.value f = b.toNat := by
    rw [r.value_of_unscaled hf, hb, zext16_toNat]
  refine ⟨r.value_mul_pow .supplyV, r.value_mul_pow .fanV, r.value_mul_pow .glowV, ?_, r.value_mul_pow .glowI,
    hbyte .curTemp _ rfl rfl, hbyte .desTemp _ rfl rfl, r.value_of_unscaled rfl, r.value_of_unscaled rfl,
    hbyte .runState _ rfl rfl, hbyte .errCode _ rfl rfl⟩
  have hpump := r.value_mul_pow .pumpF
  rw [show r.field .pumpF = zext16 r.pumpF from rfl, zext16_toNat] at hpump
  exact hpump

/-! ### Event codes -/

/-- Settles O36: the 16 codes are read one by one. -/
theorem eventCodesReadBack : Obligations.EventCodesReadBack := by
  have hresp : ∀ m : BitVec 2, m ≠ 0 → EventKind.ofCode (Event.ferrResp m).code = some (.ferrResp m) := by decide
  refine ⟨fun e he => ?_, by decide⟩
  cases e with
  | record r => rfl
  | ferrCmd => rfl
  | ferrResp m => exact hresp m fun hm => he (by rw [hm])
  | lenErr n => rfl

/-! ### FRAME statements -/

/-- A last entry sets its offset over the bytes of the entries before it (R74). -/
theorem frameBytes_concat (entries : List (Nat × Byte)) (k : Nat) (b : Byte) :
    frameBytes (entries ++ [(k, b)]) = (frameBytes entries).set k b := by
  simp [frameBytes]

theorem length_frameBytes (entries : List (Nat × Byte)) : (frameBytes entries).length = 48 := by
  induction entries using List.reverseRecOn with
  | nil => rfl
  | append_singleton entries e ih => rw [frameBytes_concat, List.length_set, ih]

theorem frameBytes_nil_getElem? : ∀ j, j < 48 →
    (frameBytes [])[j]? = some (if j = 0 ∨ j = 24 then (0x76 : Byte) else if j = 21 then 0x01 else 0x00) := by
  decide

/-- Settles O60: an entry sets one offset, and the base frame has the markers of a valid frame. -/
theorem frameStatementBytes : Obligations.FrameStatementBytes := by
  refine ⟨length_frameBytes, fun entries k b hk => ?_, frameBytes_nil_getElem?, fun F hF => ?_⟩
  · rw [frameBytes_concat]
    exact ⟨List.getElem?_set_self (by rwa [length_frameBytes]), fun j hj => List.getElem?_set_ne (Ne.symm hj)⟩
  · obtain rfl : F = ⟨frameBytes [], length_frameBytes []⟩ := Subtype.ext hF
    decide

end Sys2Proof.Machine
end

section
/-! PROOFS. The whole invariant (R23, R24, R28, R56, R70): every byte step, edge and step keeps it, and from it every step of a
host that keeps its duties answers. -/

namespace Sys2Proof.Machine

/-! ### A byte step on any state -/

/-- A byte step has the effect of its byte on the state with the byte at the head of STREAM (R80, R81). -/
theorem stepByte_effect (s : State) (b : Byte) :
    s.stepByte b = answer (ByteEffect.apply b { s with stream := b :: s.stream } <$> s.byteEffect b) := by
  rw [stepByte_eq, byteEffect_congr (s := s) (u := { s with stream := b :: s.stream }) rfl rfl (fun _ _ => rfl)]
  exact exec_selected (s := { s with stream := b :: s.stream }) rfl

theorem stepByte_next {s t : State} {b : Byte} :
    s.stepByte b = .next t ↔ ∃ e, s.Effects b e ∧ t = e.apply b { s with stream := b :: s.stream } := by
  simp only [stepByte_effect, answer_map_next, byteEffect_ok]

/-! ### What an effect does to FRAME_BUF -/

theorem ByteEffect.store_read (b : Byte) (s : State) (i : Nat) :
    Memory.read (ByteEffect.store.apply b s).frameBuf i =
      if i = s.bufLen.toNat then some b else Memory.read s.frameBuf i :=
  Memory.read_write _ _ _ _

/-- A stored byte makes at most one more cell live. -/
theorem ByteEffect.store_len_le (b : Byte) (s : State) :
    (ByteEffect.store.apply b s).bufLen.toNat ≤ s.bufLen.toNat + 1 := by
  show (s.bufLen + 1).toNat ≤ _
  rw [BitVec.toNat_add]
  exact Nat.mod_le _ _

/-- No byte step fetches at a BUF_LEN outside FRAME_BUF (R41). -/
theorem State.Effects.len_lt {s : State} {b : Byte} {e : ByteEffect} (h : s.Effects b e) : s.bufLen.toNat < 48 := by
  cases h with
  | start waits marker => simp [waits.len]
  | discard waits noMarker => simp [waits.len]
  | append acc appends =>
    obtain ⟨_, _, hhi, _⟩ := toNat_succ_of_isAppendLen appends
    omega
  | cmdPass acc len v cell good => simp [len]
  | cmdFail acc len cell => simp [len]
  | framePass acc len F frame good => simp [len]
  | frameFail acc len F frame bad => simp [len]

/-- After an effect FRAME_BUF is as before, or the byte is at BUF_LEN. -/
theorem ByteEffect.apply_frameBuf (e : ByteEffect) (b : Byte) (s : State) :
    (e.apply b s).frameBuf = s.frameBuf ∨ (e.apply b s).frameBuf = Memory.write s.frameBuf s.bufLen.toNat b := by
  cases e with
  | discard => exact .inl rfl
  | store => exact .inr rfl
  | cmdError => exact .inr rfl
  | respError m => exact .inr rfl
  | record r => exact .inr rfl

/-! ### The parts of the invariant, over a byte step -/

theorem State.Effects.frameMove {s : State} {b : Byte} {e : ByteEffect} (h : s.Effects b e) : s.FrameMove (e.apply b s) := by
  cases h with
  | start waits marker =>
    refine .start rfl ?_ ?_
    · show s.bufLen + 1 = 1
      rw [waits.len]
      rfl
    · show Memory.write s.frameBuf s.bufLen.toNat b = _
      rw [waits.len, marker]
      rfl
  | discard waits noMarker => exact .keep rfl rfl rfl
  | append acc appends => exact .append b appends acc rfl rfl rfl
  | cmdPass acc len v cell good =>
    refine .passCmd b v cell good acc rfl ?_ ?_
    · show s.bufLen + 1 = 24
      rw [len]
      rfl
    · show Memory.write s.frameBuf s.bufLen.toNat b = _
      rw [len]
      rfl
  | cmdFail acc len cell => exact .drop rfl rfl
  | framePass acc len F frame good => exact .drop rfl rfl
  | frameFail acc len F frame bad => exact .drop rfl rfl

theorem ByteEffect.apply_live {s : State} (h : s.LivePrefix) (e : ByteEffect) (b : Byte) : (e.apply b s).LivePrefix := by
  cases e with
  | discard => exact h
  | store =>
    intro i hi
    have hlen := ByteEffect.store_len_le b s
    rw [ByteEffect.store_read]
    split
    · rfl
    · exact h i (by omega)
  | cmdError => exact fun i hi => absurd hi (Nat.not_lt_zero i)
  | respError m => exact fun i hi => absurd hi (Nat.not_lt_zero i)
  | record r => exact fun i hi => absurd hi (Nat.not_lt_zero i)

theorem State.Effects.memory_wf {s : State} {b : Byte} {e : ByteEffect} (h : s.Effects b e)
    (hs : Memory.wf s.frameBuf = true) : Memory.wf (e.apply b s).frameBuf = true := by
  obtain hbuf | hbuf := e.apply_frameBuf b s
  · rwa [hbuf]
  · rw [hbuf]
    exact Memory.write_wf _ _ _ h.len_lt hs

theorem State.Effects.recordInv {s : State} {b : Byte} {e : ByteEffect} (h : s.Effects b e) (hs : s.RecordInv) :
    (e.apply b s).RecordInv := by
  cases h with
  | framePass acc len F frame good => exact fun _ => ⟨rfl, rfl⟩
  | start waits marker => exact hs
  | discard waits noMarker => exact hs
  | append acc appends => exact hs
  | cmdPass acc len v cell good => exact hs
  | cmdFail acc len cell => exact hs
  | frameFail acc len F frame bad => exact hs

/-- The codes of FERR_RESP are 0x5, 0x6 and 0x7 (R70). -/
theorem code_ferrResp_of_ne_zero {m : BitVec 2} (hm : m ≠ 0) :
    (Event.ferrResp m).code = 0x5 ∨ (Event.ferrResp m).code = 0x6 ∨ (Event.ferrResp m).code = 0x7 := by
  revert m
  decide

theorem State.Effects.eventInv {s : State} {b : Byte} {e : ByteEffect} (h : s.Effects b e) : (e.apply b s).EventInv := by
  cases h with
  | start waits marker => exact rfl
  | discard waits noMarker => exact rfl
  | append acc appends => exact rfl
  | cmdPass acc len v cell good => exact rfl
  | cmdFail acc len cell => exact .inr (.inl rfl)
  | framePass acc len F frame good => exact .inl rfl
  | frameFail acc len F frame bad => exact .inr (.inr (code_ferrResp_of_ne_zero bad))

theorem ByteEffect.apply_holdInv {s : State} (h : s.HoldInv) (hv : s.heldBack < s.stream.length) (e : ByteEffect)
    (b : Byte) : (e.apply b s).HoldInv := by
  obtain ⟨_, hclosed⟩ := h
  rw [State.HoldInv, e.apply_stream, e.apply_heldBack, e.apply_passOpen, List.length_tail]
  split
  · exact ⟨Nat.zero_le _, fun _ => rfl⟩
  · exact ⟨by omega, hclosed⟩

/-- A byte step on an available byte keeps the invariant. -/
theorem State.Effects.inv {s : State} {b : Byte} {e : ByteEffect} (h : s.Effects b e) (hs : s.Inv)
    (hv : s.heldBack < s.stream.length) : (e.apply b s).Inv where
  inv1 := h.frameMove.keeps_inv1 hs.inv1
  inv2 := h.frameMove.keeps_inv2 hs.inv2
  live := e.apply_live hs.live b
  memory := h.memory_wf hs.memory
  record := h.recordInv hs.record
  events := h.eventInv
  hold := e.apply_holdInv hs.hold hv b

/-! ### Edges and steps -/

theorem State.EventInv.of_quiet {s : State} (hv : s.evtValid = false) (hc : s.evtCode = 0) : s.EventInv := by
  simp [State.EventInv, hv, hc]

/-- The invariant speaks of the block, of the event output and of the bytes held back. -/
theorem State.Inv.of_sameBlock {s t : State} (hs : s.Inv) (h : s.SameBlock t) (events : t.EventInv) (hold : t.HoldInv) :
    t.Inv := by
  obtain ⟨hsync, hlen, hbuf, hlatest, hvalid⟩ := h
  exact {
    inv1 := by simpa only [State.Inv1, hsync, hlen] using hs.inv1
    inv2 := by simpa only [State.Inv2, hsync, hlen, hbuf] using hs.inv2
    live := by simpa only [State.LivePrefix, hlen, hbuf] using hs.live
    memory := by simpa only [hbuf] using hs.memory
    record := by simpa only [State.RecordInv, hlatest, hvalid] using hs.record
    events, hold }

/-- A state with nothing in it: (WAIT, 0), no cell, no record, no event and no byte held back. -/
theorem State.Inv.of_cleared {s : State} (waits : s.Waits) (buf : s.frameBuf = []) (valid : s.recValid = false)
    (events : s.EventInv) (held : s.heldBack = 0) : s.Inv where
  inv1 := ⟨fun _ => waits.len, fun _ => waits.sync⟩
  inv2 := .of_wait waits.sync
  live i hi := by simp [waits.len] at hi
  memory := by rw [buf]; rfl
  record h := by simp [valid] at h
  events := events
  hold := ⟨by omega, fun _ => held⟩

theorem State.afterReset_inv (s : State) : s.afterReset.Inv := .of_cleared ⟨rfl, rfl⟩ rfl rfl (.of_quiet rfl rfl) rfl

theorem State.EdgeTo.inv {s t : State} {hc : BitVec 2} (h : s.EdgeTo hc t) (hs : s.Inv) : t.Inv := by
  cases h with
  | reset rst => exact s.afterReset_inv
  | feed noRst strobe closed =>
    exact hs.of_sameBlock ⟨rfl, rfl, rfl, rfl, rfl⟩ (.of_quiet rfl rfl) ⟨Nat.zero_le _, fun _ => rfl⟩
  | idle noRst noStrobe closed => exact hs.of_sameBlock ⟨rfl, rfl, rfl, rfl, rfl⟩ (.of_quiet rfl rfl) hs.hold
  | close noRst opened noByte =>
    exact hs.of_sameBlock ⟨rfl, rfl, rfl, rfl, rfl⟩ (.of_quiet rfl rfl) ⟨Nat.zero_le _, fun _ => rfl⟩
  | byte noRst opened valid b q stream e effect => exact effect.inv hs (inValid_iff.mp valid)

theorem State.push_holdInv {s : State} (h : s.HoldInv) (bs : List Byte) (late : Bool) : (s.push bs late).HoldInv := by
  obtain ⟨hle, hclosed⟩ := h
  rw [State.HoldInv, State.push_stream, State.push_heldBack, State.push_passOpen, List.length_append]
  split
  · next hcond =>
    refine ⟨by omega, fun hp => ?_⟩
    simp [hp] at hcond
  · exact ⟨by omega, hclosed⟩

/-- The environment's coming actions are no part of the invariant. -/
theorem State.Inv.with_inputs {s : State} (hs : s.Inv) (ins : List Input) : State.Inv { s with inputs := ins } :=
  hs.of_sameBlock ⟨rfl, rfl, rfl, rfl, rfl⟩ hs.events hs.hold

/-- Settles O39: a step is an edge, which keeps each part of the invariant, or an action that leaves the block alone and at
most pushes. -/
theorem stepKeepsInvariant : Obligations.StepKeepsInvariant := by
  intro s t hs h
  rcases step_cases s with ⟨hc, ins, he⟩ | ⟨u, he, hu, hstream, _⟩ | ⟨_, _, _, _, he⟩ | ⟨_, _, _, _, he⟩ <;>
    rw [he] at h
  · exact (edge_next h).inv (hs.with_inputs ins)
  · cases h
    have hblock : s.SameBlock t := by
      rw [hu]
      exact ⟨rfl, rfl, rfl, rfl, rfl⟩
    have hevents : t.EventInv := by
      rw [hu]
      exact hs.events
    have hpass : t.passOpen = s.passOpen := by rw [hu]
    refine hs.of_sameBlock hblock hevents ?_
    obtain ⟨hst, hheld⟩ | ⟨bs, late, _, hst, hheld⟩ := hstream
    · simpa only [State.HoldInv, hst, hheld, hpass] using hs.hold
    · simpa only [State.HoldInv, hst, hheld, hpass, State.push_passOpen] using State.push_holdInv hs.hold bs late
  · cases h
  · cases h

/-- Settles O40: the state after reset is a cleared one (R32). -/
theorem resetMeetsInvariant : Obligations.ResetMeetsInvariant := .of_cleared ⟨rfl, rfl⟩ rfl rfl (.of_quiet rfl rfl) rfl

theorem State.EdgeTo.memory_wf {s t : State} {hc : BitVec 2} (h : s.EdgeTo hc t) (hs : Memory.wf s.frameBuf = true) :
    Memory.wf t.frameBuf = true := by
  cases h with
  | reset rst => rfl
  | feed noRst strobe closed => exact hs
  | idle noRst noStrobe closed => exact hs
  | close noRst opened noByte => exact hs
  | byte noRst opened valid b q stream e effect => exact effect.memory_wf hs

/-- Settles O41: RESET empties FRAME_BUF, and a byte step writes one cell inside it. -/
theorem stepKeepsFrameBufferForm : Obligations.StepKeepsFrameBufferForm := by
  intro s t hs h
  rcases step_cases s with ⟨hc, ins, he⟩ | ⟨u, he, hu, _, _⟩ | ⟨_, _, _, _, he⟩ | ⟨_, _, _, _, he⟩ <;> rw [he] at h
  · exact (edge_next h).memory_wf hs
  · cases h
    rw [hu]
    exact hs
  · cases h
  · cases h

/-! ### Nothing is fatal -/

/-- With INV1, INV2 and values in the live cells every byte has an effect: no reserved row is selected, and the cells that the two checks
read are live (R56, R67). -/
theorem effects_of_inv {s : State} (h1 : s.Inv1) (h2 : s.Inv2) (hl : s.LivePrefix) (b : Byte) : ∃ e, s.Effects b e := by
  cases hsync : s.syncState with
  | wait =>
    by_cases hb : b = 0x76
    · exact ⟨_, .start ⟨hsync, h1.mp hsync⟩ hb⟩
    · exact ⟨_, .discard ⟨hsync, h1.mp hsync⟩ hb⟩
  | acc =>
    obtain ⟨⟨hlo, hhi⟩, _, _⟩ := h2 hsync
    by_cases h23 : s.bufLen = 23
    · obtain ⟨v, hv⟩ := Option.isSome_iff_exists.mp (hl 21 (by simp [h23]))
      by_cases h0 : v = 0
      · exact ⟨_, .cmdFail hsync h23 (h0 ▸ hv)⟩
      · exact ⟨_, .cmdPass hsync h23 v hv h0⟩
    by_cases h47 : s.bufLen = 47
    · obtain ⟨F, hF⟩ := assembleFrame_of_live s b fun i hi => hl i (by simpa [h47] using hi)
      by_cases hm : causeMask (F.at 24) (F.at 45) = 0
      · exact ⟨_, .framePass hsync h47 F hF hm⟩
      · exact ⟨_, .frameFail hsync h47 F hF hm⟩
    have h0 : s.bufLen ≠ 0 := fun h0 => by simp [h0] at hlo
    exact ⟨_, .append hsync (isAppendLen_of_ne h0 (by omega) h23 h47)⟩

theorem State.Inv.effects {s : State} (hs : s.Inv) (b : Byte) : ∃ e, s.Effects b e :=
  effects_of_inv hs.inv1 hs.inv2 hs.live b

/-- From the invariant every edge answers. -/
theorem State.Inv.edge_answers {s : State} (hs : s.Inv) (hc : BitVec 2) : ∃ t, s.edge hc = .next t := by
  cases hb : hc.getLsbD 1 with
  | true => exact ⟨_, edge_rst hb s⟩
  | false =>
    cases hp : s.passOpen with
    | false =>
      cases hf : hc.getLsbD 0 with
      | true => exact ⟨_, edge_feed hb hf hp⟩
      | false => exact ⟨_, edge_idle hb hf hp⟩
    | true =>
      cases hv : s.inValid with
      | false => exact ⟨_, edge_without_byte hb hp hv⟩
      | true =>
        obtain ⟨b, q, _, he⟩ := edge_byte hb hp hv
        obtain ⟨e, heff⟩ := hs.effects b
        exact ⟨_, he.trans (answer_map_next.mpr ⟨e, byteEffect_ok.mpr heff, rfl⟩)⟩

/-- Settles O42: an edge answers, and an action stops only where the host breaks its duties. -/
theorem noStopUnderInvariant : Obligations.NoStopUnderInvariant := by
  intro s hs hlegal
  rcases step_cases s with ⟨hc, ins, he⟩ | ⟨u, he, _, _, _⟩ | ⟨f, rest, hin, hv, _⟩ | ⟨w, rest, hin, hw, _⟩
  · rw [he]
    exact (hs.with_inputs ins).edge_answers hc
  · exact ⟨u, he⟩
  · simp [State.hostLegal, hin, hv] at hlegal
  · simp only [State.hostLegal, hin, decide_eq_true_eq] at hlegal
    omega

end Sys2Proof.Machine
end

section
/-! PROOFS. What a byte step and a step do to BUF_LEN, to the observations and to the record register (R22, R27, R48, R96, R155),
and that dead cells are never observable (R56). -/

namespace Sys2Proof.Machine

/-! ### BUF_LEN -/

/-- Settles O43: BUF_LEN after each effect. -/
theorem bufLenInByteStep : Obligations.BufLenInByteStep := by
  intro s t b h
  obtain ⟨e, heff, rfl⟩ := stepByte_next.mp h
  cases heff with
  | start waits marker => simp [ByteEffect.apply, State.put, waits.sync, waits.len, marker]
  | discard waits noMarker => simpa [ByteEffect.apply, waits.sync, waits.len] using noMarker
  | append acc appends =>
    obtain ⟨hsucc, _, hhi, h23⟩ := toNat_succ_of_isAppendLen appends
    refine ⟨?_, fun hw => ?_, fun _ _ _ => hsucc, fun _ hlen => absurd hlen h23, fun _ hlen => ?_⟩
    · show (s.bufLen + 1).toNat ≤ 47
      omega
    · simp [acc] at hw
    · omega
  | cmdPass acc len v cell good => simpa [ByteEffect.apply, State.put, acc, len, cell] using good
  | cmdFail acc len cell => simp [ByteEffect.apply, State.put, acc, len, cell]
  | framePass acc len F frame good => simp [ByteEffect.apply, State.put, acc, len]
  | frameFail acc len F frame bad => simp [ByteEffect.apply, State.put, acc, len]

/-! ### Events -/

/-- No effect is reported as FERR_RESP with mask 0 (R152). -/
theorem State.Effects.event_ne {s : State} {b : Byte} {e : ByteEffect} (h : s.Effects b e) :
    e.event ≠ some (.ferrResp 0) := by
  cases h with
  | frameFail acc len F frame bad => simpa [ByteEffect.event] using bad
  | start waits marker => simp [ByteEffect.event]
  | discard waits noMarker => simp [ByteEffect.event]
  | append acc appends => simp [ByteEffect.event]
  | cmdPass acc len v cell good => simp [ByteEffect.event]
  | cmdFail acc len cell => simp [ByteEffect.event]
  | framePass acc len F frame good => simp [ByteEffect.event]

/-- An edge adds to the observations nothing, or the event of an effect. -/
theorem State.EdgeTo.trace {s t : State} {hc : BitVec 2} (h : s.EdgeTo hc t) :
    t.trace = s.trace ∨ ∃ ev, t.trace = s.trace ++ [.event ev] ∧ ev ≠ .ferrResp 0 := by
  cases h with
  | reset rst => exact .inl rfl
  | feed noRst strobe closed => exact .inl rfl
  | idle noRst noStrobe closed => exact .inl rfl
  | close noRst opened noByte => exact .inl rfl
  | byte noRst opened valid b q stream e effect =>
    rw [e.apply_trace]
    cases he : e.event with
    | none => exact .inl (List.append_nil _)
    | some ev => exact .inr ⟨ev, rfl, fun h0 => effect.event_ne (by rw [he, h0])⟩

/-- Settles O44: an edge reports at most the event of one effect, and the environment's actions only LEN_ERR. -/
theorem atMostOneEventPerStep : Obligations.AtMostOneEventPerStep := by
  intro s t h
  rcases step_cases s with ⟨hc, ins, he⟩ | ⟨u, he, _, _, hu⟩ | ⟨_, _, _, _, he⟩ | ⟨_, _, _, _, he⟩ <;> rw [he] at h
  · obtain htr | ⟨ev, htr, hne⟩ := (edge_next h).trace
    · exact ⟨[], by simpa using htr, by simp [eventsOf], by simp [eventsOf]⟩
    · exact ⟨_, htr, by simp [eventsOf], by simpa [eventsOf] using hne.symm⟩
  · cases h
    obtain htr | ⟨o, htr, ho⟩ := hu
    · exact ⟨[], by simpa using htr, by simp [eventsOf], by simp [eventsOf]⟩
    · refine ⟨_, htr, List.length_filterMap_le _ _, fun hmem => ?_⟩
      obtain ⟨o', ho', hev⟩ := List.mem_filterMap.mp hmem
      obtain rfl := List.mem_singleton.mp ho'
      cases o' with
      | event ev =>
        obtain ⟨n, rfl⟩ := ho ev rfl
        cases hev
      | latest r => cases hev
      | status w => cases hev
      | recField f v => cases hev
      | decoded r => cases hev
  · cases h
  · cases h

/-! ### The record register -/

/-- What a step takes from the environment's actions: an edge takes the first action or, while a host waits or drains or has
no action left, none; every other action is taken, leaves the block alone, and at most pushes. -/
inductive State.Turn (s t : State) : Prop where
  | edge (hc : BitVec 2) (ins : List Input) (taken : s.inputs = .edge hc :: ins ∨ (s.inputs = ins ∧ hc.getLsbD 1 = false))
      (leads : State.EdgeTo { s with inputs := ins } hc t)
  | action (a : Input) (taken : s.inputs = a :: t.inputs) (block : s.SameBlock t)
      (stream : t.stream = s.stream ++ pushedBytes [a]) (events : blockEventsOf t.trace = blockEventsOf s.trace)

theorem blockEventsOf_append (os ps : List Obs) : blockEventsOf (os ++ ps) = blockEventsOf os ++ blockEventsOf ps := by
  simp [blockEventsOf, eventsOf]

/-- What an action of the environment observes is no event of the block (R124). -/
theorem blockEventsOf_observe (s : State) {o : Obs} (h : blockEventsOf [o] = []) :
    blockEventsOf (s.observe o).trace = blockEventsOf s.trace := by
  rw [State.observe_trace, blockEventsOf_append, h, List.append_nil]

/-- A length given to the decoder sub-block leaves the block alone, and LEN_ERR is no event of the block (R124, R137). -/
theorem exec_decodeLength_turn {s t : State} {a : Input} {rest : List Input} (hin : s.inputs = a :: rest)
    (hpush : pushedBytes [a] = []) {n : Nat} (h : exec (decodeLength n) { s with inputs := rest } = .next t) :
    s.Turn t := by
  have hstream : s.stream = s.stream ++ pushedBytes [a] := by rw [hpush, List.append_nil]
  unfold decodeLength at h
  split at h
  · cases h
    exact .action a hin ⟨rfl, rfl, rfl, rfl, rfl⟩ hstream (blockEventsOf_observe s rfl)
  · cases h
    exact .action a hin ⟨rfl, rfl, rfl, rfl, rfl⟩ hstream (blockEventsOf_observe s rfl)

/-- Every step that answers takes its turn so. -/
theorem step_turn {s t : State} (h : step s = .next t) : s.Turn t := by
  cases hin : s.inputs with
  | nil => exact .edge 0 s.inputs (.inr ⟨rfl, rfl⟩) (edge_next ((step_no_action hin).symm.trans h))
  | cons a rest =>
    cases a <;> simp only [step, State.act, hin] at h
    case edge hc => exact .edge hc rest (.inl hin) (edge_next h)
    case await =>
      split at h
      · exact .edge 0 s.inputs (.inr ⟨rfl, rfl⟩) (edge_next h)
      · cases h
        exact .action .await hin ⟨rfl, rfl, rfl, rfl, rfl⟩ (List.append_nil _).symm rfl
    case drain =>
      split at h
      · exact .edge 0 s.inputs (.inr ⟨rfl, rfl⟩) (edge_next h)
      · split at h
        · cases h
          exact .action .drain hin ⟨rfl, rfl, rfl, rfl, rfl⟩ (List.append_nil _).symm rfl
        · exact .edge 1 s.inputs (.inr ⟨rfl, rfl⟩) (edge_next h)
    case push bs =>
      cases h
      exact .action (.push bs) hin ⟨rfl, rfl, rfl, rfl, rfl⟩ (by simp [pushedBytes]) rfl
    case pushLate bs =>
      cases h
      exact .action (.pushLate bs) hin ⟨rfl, rfl, rfl, rfl, rfl⟩ (by simp [pushedBytes]) rfl
    case readLatest =>
      cases h
      exact .action .readLatest hin ⟨rfl, rfl, rfl, rfl, rfl⟩ (List.append_nil _).symm (blockEventsOf_observe s rfl)
    case readStatus =>
      cases h
      exact .action .readStatus hin ⟨rfl, rfl, rfl, rfl, rfl⟩ (List.append_nil _).symm (blockEventsOf_observe s rfl)
    case readField f =>
      unfold State.sampleField at h
      split at h
      · cases h
        exact .action (.readField f) hin ⟨rfl, rfl, rfl, rfl, rfl⟩ (List.append_nil _).symm (blockEventsOf_observe s rfl)
      · cases h
    case driveFrame bus =>
      cases h
      exact .action (.driveFrame bus) hin ⟨rfl, rfl, rfl, rfl, rfl⟩ (List.append_nil _).symm rfl
    case decLen w =>
      by_cases hw : w < 2 ^ 6
      · simp only [State.presentLength, decodeWord, if_pos hw] at h
        exact exec_decodeLength_turn hin rfl h
      · simp only [State.presentLength, decodeWord, if_neg hw] at h
        cases h
    case decCall n => exact exec_decodeLength_turn hin rfl h

/-- Settles O46: RECORD is the only effect that writes LATEST or REC_VALID. -/
theorem recordRegisterIsAtomic : Obligations.RecordRegisterIsAtomic := by
  intro s t h
  cases step_turn h with
  | action a taken block stream events =>
    obtain ⟨_, _, _, hlatest, hvalid⟩ := block
    exact .inl ⟨hlatest.symm, hvalid.symm⟩
  | edge hc ins taken leads =>
    cases leads with
    | reset rst =>
      obtain hin | ⟨_, hb⟩ := taken
      · exact .inr (.inr ⟨hc, ins, hin, rst, rfl⟩)
      · cases hb.symm.trans rst
    | feed noRst strobe closed => exact .inl ⟨rfl, rfl⟩
    | idle noRst noStrobe closed => exact .inl ⟨rfl, rfl⟩
    | close noRst opened noByte => exact .inl ⟨rfl, rfl⟩
    | byte noRst opened valid b q stream e effect =>
      cases e with
      | discard => exact .inl ⟨rfl, rfl⟩
      | store => exact .inl ⟨rfl, rfl⟩
      | cmdError => exact .inl ⟨rfl, rfl⟩
      | respError m => exact .inl ⟨rfl, rfl⟩
      | record r => exact .inr (.inl ⟨r, rfl, rfl, rfl⟩)

/-! ### RECORD -/

theorem causeMask_eq_zero {b24 b45 : Byte} (h : causeMask b24 b45 = 0) : b24 = 0x76 ∧ b45 = 0x00 := by
  have h1 := causeMask_getLsbD_one b24 b45
  have h0 := causeMask_getLsbD_zero b24 b45
  rw [h] at h1 h0
  exact ⟨by simpa using h1, by simpa using h0⟩

/-- Under INV2 the frame check passes only for a valid frame: the other two markers were seen before (R62). -/
theorem valid_of_framePass {s : State} {b : Byte} {F : Frame} (h2 : s.Inv2) (acc : s.syncState = .acc)
    (len : s.bufLen = 47) (frame : s.assembleFrame b = .ok F) (good : causeMask (F.at 24) (F.at 45) = 0) :
    F.valid = true := by
  obtain ⟨_, hstart, hmarker⟩ := h2 acc
  obtain ⟨v, hv, hgood⟩ := hmarker (by simp [len])
  have h0 : F.at 0 = Config.startMarker := Option.some.inj ((assembleFrame_ok frame 0).symm.trans hstart)
  have h21 : F.at 21 = v := Option.some.inj ((assembleFrame_ok frame 21).symm.trans hv)
  obtain ⟨h24, h45⟩ := causeMask_eq_zero good
  simpa [Frame.valid, h0, h21, h24, h45, Config.startMarker, Config.respEndOk] using hgood

/-- Settles O47: RECORD is the effect of the frame check alone, on the frame it assembles. -/
theorem recordOnlyForValidFrame : Obligations.RecordOnlyForValidFrame := by
  intro s t r h2 h htrace
  cases step_turn h with
  | action a taken block stream events =>
    rw [htrace, blockEventsOf_append] at events
    simp [blockEventsOf, eventsOf, Event.code] at events
  | edge hc ins taken leads =>
    cases leads with
    | reset rst => simp [State.afterReset] at htrace
    | feed noRst strobe closed => simp at htrace
    | idle noRst noStrobe closed => simp at htrace
    | close noRst opened noByte => simp at htrace
    | byte noRst opened valid b q stream e effect =>
      rw [e.apply_trace, List.append_cancel_left_eq] at htrace
      cases effect with
      | framePass acc len F frame good =>
        obtain rfl : decodeRecord F = r := by simpa [ByteEffect.event] using htrace
        have frame' : s.assembleFrame b = .ok F := (assembleFrame_congr b fun _ _ => rfl).trans frame
        have hlast : F.at 47 = b := assembleFrame_ok frame' 47
        refine ⟨acc, len, F, valid_of_framePass h2 acc len frame' good, rfl, ?_, fun i hi => ?_⟩
        · rw [hlast, show s.stream = b :: q from stream]
          rfl
        · simpa [hi] using assembleFrame_ok frame' i
      | start waits marker => simp [ByteEffect.event] at htrace
      | discard waits noMarker => simp [ByteEffect.event] at htrace
      | append acc appends => simp [ByteEffect.event] at htrace
      | cmdPass acc len v cell good => simp [ByteEffect.event] at htrace
      | cmdFail acc len cell => simp [ByteEffect.event] at htrace
      | frameFail acc len F frame bad => simp [ByteEffect.event] at htrace

/-! ### Dead cells -/

/-- The state with other contents of FRAME_BUF. -/
def State.withBuf (s : State) (m : Memory) : State := { s with frameBuf := m }

@[simp] theorem State.withBuf_bufLen (s : State) (m : Memory) : (s.withBuf m).bufLen = s.bufLen := rfl
@[simp] theorem State.withBuf_frameBuf (s : State) (m : Memory) : (s.withBuf m).frameBuf = m := rfl

/-- The live cells of `s` hold the same in `m` (R28). -/
def State.AgreesLive (s : State) (m : Memory) : Prop :=
  ∀ i, i < s.bufLen.toNat → Memory.read m i = Memory.read s.frameBuf i

theorem sameButDead_iff {s t : State} : s.SameButDead t ↔ ∃ m, t = s.withBuf m ∧ s.AgreesLive m := by
  constructor
  · rintro ⟨ht, hlive⟩
    exact ⟨t.frameBuf, ht, hlive⟩
  · rintro ⟨m, rfl, hlive⟩
    exact ⟨rfl, hlive⟩

/-- No dead cell survives an effect as a live one: the one cell that may become live is written. -/
theorem ByteEffect.apply_sameButDead {s : State} {m : Memory} (h : s.AgreesLive m) (e : ByteEffect) (b : Byte) :
    (e.apply b s).SameButDead (e.apply b (s.withBuf m)) := by
  cases e with
  | discard => exact ⟨rfl, h⟩
  | store =>
    refine ⟨rfl, fun i hi => ?_⟩
    have hlen := ByteEffect.store_len_le b s
    rw [ByteEffect.store_read, ByteEffect.store_read, State.withBuf_bufLen, State.withBuf_frameBuf]
    by_cases hlast : i = s.bufLen.toNat
    · rw [if_pos hlast, if_pos hlast]
    · rw [if_neg hlast, if_neg hlast]
      exact h i (by omega)
  | cmdError => exact ⟨rfl, fun i hi => absurd hi (Nat.not_lt_zero i)⟩
  | respError m => exact ⟨rfl, fun i hi => absurd hi (Nat.not_lt_zero i)⟩
  | record r => exact ⟨rfl, fun i hi => absurd hi (Nat.not_lt_zero i)⟩

/-- An edge does the same whatever the dead cells hold: a byte step reads none. -/
theorem edge_sameButDead {s : State} {m : Memory} (h : s.AgreesLive m) (hc : BitVec 2) :
    Out.SameButDead (s.edge hc) ((s.withBuf m).edge hc) := by
  cases hb : hc.getLsbD 1 with
  | true =>
    rw [edge_rst hb, edge_rst hb]
    exact ⟨rfl, fun _ _ => rfl⟩
  | false =>
    cases hp : s.passOpen with
    | false =>
      cases hf : hc.getLsbD 0 with
      | true =>
        rw [edge_feed hb hf hp, edge_feed (s := s.withBuf m) hb hf hp]
        exact ⟨rfl, h⟩
      | false =>
        rw [edge_idle hb hf hp, edge_idle (s := s.withBuf m) hb hf hp]
        exact ⟨rfl, h⟩
    | true =>
      cases hv : s.inValid with
      | false =>
        rw [edge_without_byte hb hp hv, edge_without_byte (s := s.withBuf m) hb hp hv]
        exact ⟨rfl, h⟩
      | true =>
        obtain ⟨b, q, hs, he⟩ := edge_byte hb hp hv
        obtain ⟨b', q', hs', he'⟩ := edge_byte (s := s.withBuf m) hb hp hv
        obtain ⟨rfl, rfl⟩ := List.cons_eq_cons.mp (hs.symm.trans hs')
        have heff : s.byteEffect b = (s.withBuf m).byteEffect b :=
          byteEffect_congr (s := s) (u := s.withBuf m) rfl rfl (fun i hi => (h i hi).symm) b
        rw [he, he', ← heff]
        cases s.byteEffect b with
        | error f => exact rfl
        | ok e => exact ByteEffect.apply_sameButDead h e b

/-- The decoder sub-block does not look at FRAME_BUF (R137). -/
theorem exec_decodeLength_sameButDead {s : State} {m : Memory} (h : s.AgreesLive m) (n : Nat) :
    Out.SameButDead (exec (decodeLength n) s) (exec (decodeLength n) (s.withBuf m)) := by
  unfold decodeLength
  split
  · exact ⟨rfl, h⟩
  · exact ⟨rfl, h⟩

/-- Settles O48: an edge reads no dead cell, and the environment's actions read and write none at all. -/
theorem deadCellsAreUnobservable : Obligations.DeadCellsAreUnobservable := by
  intro s t hst
  obtain ⟨m, rfl, h⟩ := sameButDead_iff.mp hst
  cases hin : s.inputs with
  | nil =>
    rw [step_no_action hin, step_no_action (s := s.withBuf m) hin]
    exact edge_sameButDead h 0
  | cons a rest =>
    have hin' : (s.withBuf m).inputs = a :: rest := hin
    cases a <;> simp only [step, State.act, hin, hin']
    case edge hc => exact edge_sameButDead (s := { s with inputs := rest }) h hc
    case await =>
      by_cases hp : s.passOpen = true
      · rw [if_pos hp, if_pos (show (s.withBuf m).passOpen = true from hp)]
        exact edge_sameButDead h 0
      · rw [if_neg hp, if_neg (show ¬ (s.withBuf m).passOpen = true from hp)]
        exact ⟨rfl, h⟩
    case drain =>
      by_cases hp : s.passOpen = true
      · rw [if_pos hp, if_pos (show (s.withBuf m).passOpen = true from hp)]
        exact edge_sameButDead h 0
      rw [if_neg hp, if_neg (show ¬ (s.withBuf m).passOpen = true from hp)]
      by_cases hs : s.stream = []
      · rw [if_pos hs, if_pos (show (s.withBuf m).stream = [] from hs)]
        exact ⟨rfl, h⟩
      · rw [if_neg hs, if_neg (show ¬ (s.withBuf m).stream = [] from hs)]
        exact edge_sameButDead h 1
    case push bs => exact ⟨rfl, h⟩
    case pushLate bs => exact ⟨rfl, h⟩
    case readLatest => exact ⟨rfl, h⟩
    case readStatus => exact ⟨rfl, h⟩
    case readField f =>
      have hread : State.readField { s.withBuf m with inputs := rest } f = State.readField { s with inputs := rest } f :=
        rfl
      unfold State.sampleField
      rw [hread]
      cases State.readField { s with inputs := rest } f with
      | ok v => exact ⟨rfl, h⟩
      | error e => exact rfl
    case driveFrame bus => exact ⟨rfl, h⟩
    case decLen w =>
      by_cases hw : w < 2 ^ 6
      · simp only [State.presentLength, decodeWord, if_pos hw]
        exact exec_decodeLength_sameButDead (s := { s with inputs := rest }) h w
      · simp only [State.presentLength, decodeWord, if_neg hw]
        exact rfl
    case decCall n => exact exec_decodeLength_sameButDead (s := { s with inputs := rest }) h n

end Sys2Proof.Machine
end

section
/-! PROOFS. Valid frames (R96) and the recovery from every state (R159). -/

namespace Sys2Proof.Machine

/-! ### A valid frame -/

/-- After 47 bytes of a frame the frame check assembles the frame (R86). -/
theorem State.Holds.assembles {s : State} {p : List Byte} {b : Byte} {F : Frame} (h : s.Holds p) (hF : F.1 = p ++ [b]) :
    s.bufLen = 47 ∧ s.assembleFrame b = .ok F := by
  have hp : p.length = 47 := by simpa [hF] using F.length_eq
  have hlast : F.at 47 = b := by simp [Frame.at, hF, hp]
  refine ⟨BitVec.eq_of_toNat_eq (h.len.trans hp), hlast ▸ assembleFrame_of_cells fun i hi => ?_⟩
  rw [h.cells i (by omega), ← F.getElem?_eq_at, hF, List.getElem?_append_left (by omega)]

/-- Settles O49: a valid frame passes the command check at its 24th byte and the frame check at its 48th. -/
theorem validFrameGivesItsRecord : Obligations.ValidFrameGivesItsRecord := by
  intro s F hwait hlen hF
  simp only [Frame.valid, Bool.and_eq_true, beq_iff_eq, bne_iff_ne] at hF
  obtain ⟨⟨⟨h0, h21⟩, h24⟩, h45⟩ := hF
  have hmask : causeMask (F.at 24) (F.at 45) = 0 := by
    rw [h24, h45]
    rfl
  obtain ⟨t, hst, ht⟩ := (State.Waits.runs_command ⟨hwait, hlen⟩ h0).2 h21
  obtain ⟨u, htu, hu⟩ := ht.runs_appends ((F.1.drop 24).take 23) (.inr (by simp [F.length_eq]))
  have hsu := hst.append htu
  obtain ⟨h47, hframe⟩ := hu.assembles F.eq_take_append
  have hlast := stepByte_next.mpr ⟨_, .framePass hu.sync h47 F hframe hmask, rfl⟩
  refine ⟨(ByteEffect.record (decodeRecord F)).apply (F.at 47) { u with stream := F.at 47 :: u.stream }, ?_, rfl, rfl,
    hsu.stream, ?_, rfl, rfl⟩
  · rw [F.eq_take_append, runBytes_append hsu.run, State.runBytes, hlast]
    rfl
  · show u.trace ++ _ = _
    rw [hsu.trace]
    simp

/-! ### Recovery from every state -/

/-- How many bytes the block still takes before it waits for a start marker, when none of them is one. -/
def State.bytesToWait (s : State) : Nat :=
  match s.syncState with
  | .wait => 0
  | .acc => 48 - s.bufLen.toNat

theorem State.bytesToWait_of_wait {s : State} (h : s.syncState = .wait) : s.bytesToWait = 0 := by
  simp [State.bytesToWait, h]

theorem State.bytesToWait_of_acc {s : State} (h : s.syncState = .acc) : s.bytesToWait = 48 - s.bufLen.toNat := by
  simp [State.bytesToWait, h]

/-- A state of the invariant with no byte left to take is (WAIT, 0). -/
theorem State.Inv.waits {s : State} (hs : s.Inv) (h : s.bytesToWait = 0) : s.Waits := by
  cases hsync : s.syncState with
  | wait => exact ⟨hsync, hs.inv1.mp hsync⟩
  | acc =>
    obtain ⟨⟨_, hhi⟩, _, _⟩ := hs.inv2 hsync
    rw [State.bytesToWait_of_acc hsync] at h
    omega

/-- Each byte that is no start marker brings the block nearer to (WAIT, 0). -/
theorem State.Effects.bytesToWait_le {s : State} {b : Byte} {e : ByteEffect} (h : s.Effects b e) (hb : b ≠ 0x76) :
    (e.apply b s).bytesToWait ≤ s.bytesToWait - 1 := by
  have hstore (hacc : s.syncState = .acc) (hsucc : (s.bufLen + 1).toNat = s.bufLen.toNat + 1) :
      (ByteEffect.store.apply b s).bytesToWait ≤ s.bytesToWait - 1 := by
    rw [State.bytesToWait_of_acc (s := ByteEffect.store.apply b s) rfl, State.bytesToWait_of_acc hacc]
    show 48 - (s.bufLen + 1).toNat ≤ _
    omega
  cases h with
  | start waits marker => exact absurd marker hb
  | discard waits noMarker =>
    rw [State.bytesToWait_of_wait (s := ByteEffect.discard.apply b s) waits.sync]
    exact Nat.zero_le _
  | append acc appends => exact hstore acc (toNat_succ_of_isAppendLen appends).1
  | cmdPass acc len v cell good => exact hstore acc (by rw [len]; rfl)
  | cmdFail acc len cell => exact Nat.zero_le _
  | framePass acc len F frame good => exact Nat.zero_le _
  | frameFail acc len F frame bad => exact Nat.zero_le _

/-- The invariant with more bytes in STREAM. -/
theorem State.Inv.cons_stream {s : State} (hs : s.Inv) (b : Byte) : State.Inv { s with stream := b :: s.stream } :=
  hs.of_sameBlock ⟨rfl, rfl, rfl, rfl, rfl⟩ hs.events ⟨Nat.le_succ_of_le hs.hold.1, hs.hold.2⟩

/-- From the invariant a byte step answers, in the invariant again. -/
theorem State.Inv.stepByte_answers {s : State} (hs : s.Inv) (b : Byte) :
    ∃ e, s.Effects b e ∧ s.stepByte b = .next (e.apply b { s with stream := b :: s.stream }) ∧
      (e.apply b { s with stream := b :: s.stream }).Inv := by
  obtain ⟨e, heff⟩ := hs.effects b
  exact ⟨e, heff, stepByte_next.mpr ⟨e, heff, rfl⟩,
    (heff.congr (u := { s with stream := b :: s.stream }) rfl rfl rfl).inv (hs.cons_stream b) (Nat.lt_succ_of_le hs.hold.1)⟩

/-- Bytes that are no start marker, as many as the block still takes, bring it to (WAIT, 0). -/
theorem State.Inv.runs_to_wait {s : State} (hs : s.Inv) {xs : List Byte} (hxs : 0x76 ∉ xs)
    (hlen : s.bytesToWait ≤ xs.length) :
    ∃ t os, s.runBytes xs = .next t ∧ t.Waits ∧ t.trace = s.trace ++ os := by
  induction xs generalizing s with
  | nil => exact ⟨s, [], rfl, hs.waits (Nat.le_zero.mp hlen), (List.append_nil _).symm⟩
  | cons x xs ih =>
    obtain ⟨hx, hxs⟩ := List.ne_and_not_mem_of_not_mem_cons hxs
    obtain ⟨e, heff, hstep, hinv⟩ := hs.stepByte_answers x
    have hnear := (heff.congr (u := { s with stream := x :: s.stream }) rfl rfl rfl).bytesToWait_le (Ne.symm hx)
    obtain ⟨t, os, hrun, hwaits, htrace⟩ := ih hinv hxs (by
      have hsame : State.bytesToWait { s with stream := x :: s.stream } = s.bytesToWait := rfl
      rw [List.length_cons] at hlen
      omega)
    refine ⟨t, (e.event.map Obs.event).toList ++ os, ?_, hwaits, ?_⟩
    · simp only [State.runBytes, hstep, hrun]
    · rw [htrace, e.apply_trace, List.append_assoc]

/-- Settles O52: 47 bytes suffice to reach (WAIT, 0), and from there the valid frame gives its RECORD. -/
theorem anyStateRecovers : Obligations.AnyStateRecovers := by
  intro s xs F hs hlen hxs hF
  have hleft : s.bytesToWait ≤ xs.length := by
    cases hsync : s.syncState with
    | wait => simp [State.bytesToWait_of_wait hsync]
    | acc =>
      obtain ⟨⟨hlo, _⟩, _, _⟩ := hs.inv2 hsync
      rw [State.bytesToWait_of_acc hsync]
      omega
  obtain ⟨t, os, hrun, hwaits, htrace⟩ := hs.runs_to_wait hxs hleft
  obtain ⟨u, hrun', hsync, hbuf, _, htrace', hlatest, hvalid⟩ := validFrameGivesItsRecord t F hwaits.sync hwaits.len hF
  exact ⟨u, os, (runBytes_append hrun _).trans hrun', by rw [htrace', htrace], hlatest, hvalid, hsync, hbuf⟩

end Sys2Proof.Machine
end

section
/-! PROOFS. The feed pass (R90): the function form as a relation with one rule for each way a pass goes on, and by induction over
it the invariant, progress (R92), the run it makes (R93) and the machine's steps (R133). -/

namespace Sys2Proof.Machine

/-! ### A pass -/

/-- The pass of a state leads to another: it ends when STREAM is empty or with a failing command check, and goes on after any
other byte (R90). -/
inductive State.Pass : State → State → Prop where
  | close {s : State} (empty : s.stream = []) : s.Pass s.closePass
  | abort {s : State} (b : Byte) (q : List Byte) (e : ByteEffect) (stream : s.stream = b :: q) (effect : s.Effects b e)
      (ends : e.event = some .ferrCmd) : s.Pass (e.apply b s)
  | next {s u : State} (b : Byte) (q : List Byte) (e : ByteEffect) (stream : s.stream = b :: q) (effect : s.Effects b e)
      (goesOn : e.event ≠ some .ferrCmd) (rest : (e.apply b s).Pass u) : s.Pass u

/-- The byte step of the loop of R90 takes the head of STREAM. -/
theorem stepByte_head {s : State} {b : Byte} {q : List Byte} (hs : s.stream = b :: q) :
    State.stepByte { s with stream := q } b = answer (ByteEffect.apply b s <$> s.byteEffect b) := by
  have heff : State.byteEffect { s with stream := q } b = s.byteEffect b := byteEffect_congr rfl rfl (fun _ _ => rfl) b
  have hstate : { s with stream := b :: q } = s := by rw [← hs]
  rw [stepByte_effect, heff]
  exact congrArg (fun u => answer (ByteEffect.apply b u <$> s.byteEffect b)) hstate

theorem feedLoop_cons {s u : State} {b : Byte} {q : List Byte} (hs : s.stream = b :: q) :
    s.feedLoop (b :: q) = .next u ↔
      ∃ e, s.Effects b e ∧ (if (e.apply b s).passOpen then (e.apply b s).feedLoop q else .next (e.apply b s)) = .next u := by
  rw [State.feedLoop, stepByte_head hs]
  cases heff : s.byteEffect b with
  | error f =>
    have hnone (e : ByteEffect) : ¬ s.Effects b e := fun h => by simp [byteEffect_ok.mpr h] at heff
    simp [hnone, Functor.map, Except.map, answer]
  | ok e =>
    have honly (e' : ByteEffect) : s.Effects b e' ↔ e' = e := by rw [← byteEffect_ok, heff, Except.ok.injEq, eq_comm]
    simp [honly, Functor.map, Except.map, answer]

/-- The loop of R90 over STREAM answers exactly where the pass leads. -/
theorem feedLoop_iff_pass {s u : State} {q : List Byte} (hp : s.passOpen = true) (hs : s.stream = q) :
    s.feedLoop q = .next u ↔ s.Pass u := by
  induction q generalizing s with
  | nil =>
    constructor
    · intro h
      cases h
      exact .close hs
    · intro h
      cases h with
      | close empty => rfl
      | abort b q e stream effect ends => simp [hs] at stream
      | next b q e stream effect goesOn rest => simp [hs] at stream
  | cons b q ih =>
    have htail (e : ByteEffect) : (e.apply b s).stream = q := by rw [e.apply_stream, hs, List.tail_cons]
    rw [feedLoop_cons hs]
    constructor
    · rintro ⟨e, heff, h⟩
      by_cases hend : e.event = some .ferrCmd
      · have hclosed : (e.apply b s).passOpen = false := by rw [e.apply_passOpen, if_pos hend]
        rw [hclosed] at h
        cases h
        exact .abort b q e hs heff hend
      · have hopen : (e.apply b s).passOpen = true := by rw [e.apply_passOpen, if_neg hend, hp]
        rw [hopen, if_pos rfl, ih hopen (htail e)] at h
        exact .next b q e hs heff hend h
    · intro h
      cases h with
      | close empty => simp [hs] at empty
      | abort b' q' e stream effect ends =>
        obtain ⟨rfl, rfl⟩ := List.cons_eq_cons.mp (hs.symm.trans stream)
        refine ⟨e, effect, if_neg ?_⟩
        simp [e.apply_passOpen, ends]
      | next b' q' e stream effect goesOn rest =>
        obtain ⟨rfl, rfl⟩ := List.cons_eq_cons.mp (hs.symm.trans stream)
        have hopen : (e.apply b s).passOpen = true := by rw [e.apply_passOpen, if_neg goesOn, hp]
        exact ⟨e, effect, by rw [hopen, if_pos rfl, ih hopen (htail e)]; exact rest⟩

/-- Feed in the function form is the pass that FEED opens (R90, R133). -/
theorem feedPass_iff_pass {s u : State} : s.feedPass = .next u ↔ (s.setPass true).Pass u :=
  feedLoop_iff_pass rfl rfl

/-! ### What a pass achieves -/

theorem State.Pass.inputs {s u : State} (h : s.Pass u) : u.inputs = s.inputs := by
  induction h with
  | close empty => rfl
  | @abort s b q e stream effect ends => exact e.apply_inputs b s
  | @next s u b q e stream effect goesOn rest ih => exact ih.trans (e.apply_inputs b s)

theorem State.Pass.passOpen {s u : State} (h : s.Pass u) : u.passOpen = false := by
  induction h with
  | close empty => rfl
  | @abort s b q e stream effect ends => rw [e.apply_passOpen, if_pos ends]
  | next b q e stream effect goesOn rest ih => exact ih

/-- A pass takes bytes from the head of STREAM, at least one if there is any. -/
theorem State.Pass.stream {s u : State} (h : s.Pass u) : ∃ c, s.stream = c ++ u.stream ∧ (s.stream ≠ [] → c ≠ []) := by
  induction h with
  | close empty => exact ⟨[], rfl, fun h => absurd empty h⟩
  | @abort s b q e stream effect ends =>
    exact ⟨[b], by rw [e.apply_stream, stream]; rfl, fun _ => List.cons_ne_nil _ _⟩
  | @next s u b q e stream effect goesOn rest ih =>
    obtain ⟨c, hc, _⟩ := ih
    rw [e.apply_stream, stream, List.tail_cons] at hc
    exact ⟨b :: c, by rw [stream, hc]; rfl, fun _ => List.cons_ne_nil _ _⟩

/-- A pass leaves no byte behind unless it ends with FERR_CMD (R90). -/
theorem State.Pass.ends {s u : State} (h : s.Pass u) :
    u.stream = [] ∨ ∃ os, u.trace = s.trace ++ os ++ [.event .ferrCmd] := by
  induction h with
  | close empty => exact .inl empty
  | @abort s b q e stream effect ends => exact .inr ⟨[], by rw [e.apply_trace, ends]; simp⟩
  | @next s u b q e stream effect goesOn rest ih =>
    obtain hempty | ⟨os, hos⟩ := ih
    · exact .inl hempty
    · exact .inr ⟨_ ++ os, by rw [hos, e.apply_trace, ← List.append_assoc]⟩

theorem State.Pass.progressed {s u : State} (h : (s.setPass true).Pass u) (hs : s.stream ≠ []) : s.ProgressedTo u := by
  obtain ⟨c, hc, hne⟩ := h.stream
  exact ⟨h.passOpen, ⟨c, hne hs, hc⟩, h.ends⟩

/-- From the invariant, with no byte held back, a pass leads to a state of the invariant. -/
theorem State.Inv.pass {s : State} (hs : s.Inv) (hp : s.passOpen = true) (h0 : s.heldBack = 0) : ∃ u, s.Pass u ∧ u.Inv := by
  generalize hq : s.stream = q
  induction q generalizing s with
  | nil =>
    exact ⟨_, .close hq, hs.of_sameBlock ⟨rfl, rfl, rfl, rfl, rfl⟩ (.of_quiet rfl rfl) ⟨Nat.zero_le _, fun _ => rfl⟩⟩
  | cons b q ih =>
    obtain ⟨e, heff⟩ := hs.effects b
    have hinv := heff.inv hs (by simp [h0, hq])
    by_cases hend : e.event = some .ferrCmd
    · exact ⟨_, .abort b q e hq heff hend, hinv⟩
    · obtain ⟨u, hu, huinv⟩ := ih hinv (by rw [e.apply_passOpen, if_neg hend, hp])
        (by rw [e.apply_heldBack, if_neg hend, h0]) (by rw [e.apply_stream, hq, List.tail_cons])
      exact ⟨u, .next b q e hq heff hend hu, huinv⟩

/-- The opening of a pass keeps the invariant, whatever was held back. -/
theorem State.Inv.setPass {s : State} (hs : s.Inv) : (s.setPass true).Inv :=
  hs.of_sameBlock ⟨rfl, rfl, rfl, rfl, rfl⟩ hs.events ⟨Nat.zero_le _, fun _ => rfl⟩

theorem State.Inv.feedPass {s : State} (hs : s.Inv) : ∃ u, s.feedPass = .next u ∧ (s.setPass true).Pass u ∧ u.Inv := by
  obtain ⟨u, hu, hinv⟩ := hs.setPass.pass rfl rfl
  exact ⟨u, feedPass_iff_pass.mpr hu, hu, hinv⟩

/-! ### Passes with arrivals between them -/

theorem feedChunks_cons {s t : State} {c : List Byte} {cs : List (List Byte)} :
    s.feedChunks (c :: cs) = .next t ↔
      ∃ u, State.feedPass { s with stream := s.stream ++ c } = .next u ∧ u.feedChunks cs = .next t := by
  rw [State.feedChunks]
  cases State.feedPass { s with stream := s.stream ++ c } <;> simp

theorem State.append_nil_stream (s : State) : { s with stream := s.stream ++ [] } = s := by rw [List.append_nil]

/-- As many passes as STREAM has bytes empty it (R92). -/
theorem feedChunks_empties {s t : State} {n : Nat} (hn : s.stream.length ≤ n)
    (h : s.feedChunks (List.replicate n []) = .next t) : t.stream = [] := by
  induction n generalizing s with
  | zero =>
    cases h
    exact List.eq_nil_of_length_eq_zero (Nat.le_zero.mp hn)
  | succ n ih =>
    obtain ⟨u, hu, h⟩ := feedChunks_cons.mp h
    rw [s.append_nil_stream, feedPass_iff_pass] at hu
    obtain ⟨c, hc, hne⟩ := hu.stream
    rw [State.setPass_stream] at hc hne
    refine ih ?_ h
    have hlen := congrArg List.length hc
    rw [List.length_append] at hlen
    by_cases hs : s.stream = []
    · simp [hs] at hlen
      omega
    · have := List.length_pos_iff.mpr (hne hs)
      omega

theorem State.Inv.feedChunks {s : State} (hs : s.Inv) (n : Nat) : ∃ t, s.feedChunks (List.replicate n []) = .next t := by
  induction n generalizing s with
  | zero => exact ⟨s, rfl⟩
  | succ n ih =>
    obtain ⟨u, hu, _, hinv⟩ := hs.feedPass
    obtain ⟨t, ht⟩ := ih hinv
    exact ⟨t, feedChunks_cons.mpr ⟨u, by rwa [s.append_nil_stream], ht⟩⟩

/-- Settles O55: a pass takes a byte or ends at once, and passes cannot stop in the invariant. -/
theorem feedMakesProgress : Obligations.FeedMakesProgress := by
  refine ⟨fun s hs => ?_, fun s hs => ?_, fun s t hne h => ?_, fun s t h => feedChunks_empties le_rfl h⟩
  · obtain ⟨u, hu, hpass, hinv⟩ := hs.feedPass
    exact ⟨u, hu, hinv, hpass.progressed⟩
  · obtain ⟨t, ht⟩ := hs.feedChunks s.stream.length
    exact ⟨t, ht, feedChunks_empties le_rfl ht⟩
  · exact (feedPass_iff_pass.mp h).progressed hne

/-! ### The run that a pass makes -/

theorem State.SameBlock.trans {s t u : State} (h : s.SameBlock t) (h' : t.SameBlock u) : s.SameBlock u := by
  obtain ⟨h1, h2, h3, h4, h5⟩ := h
  obtain ⟨k1, k2, k3, k4, k5⟩ := h'
  exact ⟨h1.trans k1, h2.trans k2, h3.trans k3, h4.trans k4, h5.trans k5⟩

theorem ByteEffect.apply_sameBlock {s v : State} (h : v.SameBlock s) (e : ByteEffect) (b : Byte) :
    (e.apply b v).SameBlock (e.apply b s) := by
  obtain ⟨hsync, hlen, hbuf, hlatest, hvalid⟩ := h
  cases e <;> simp [State.SameBlock, ByteEffect.apply, State.put, hsync, hlen, hbuf, hlatest, hvalid]

/-- Two states with the same block make the same byte step: STREAM, pass control and the environment are not read (R80). -/
theorem State.SameBlock.stepByte {s v : State} {b : Byte} {e : ByteEffect} (h : v.SameBlock s) (heff : s.Effects b e) :
    ∃ w, v.stepByte b = .next w ∧ w.SameBlock (e.apply b s) ∧ w.trace = v.trace ++ (e.event.map Obs.event).toList := by
  have heff' : v.Effects b e := by
    obtain ⟨hsync, hlen, hbuf, _, _⟩ := h
    exact heff.congr hsync hlen hbuf
  exact ⟨_, stepByte_next.mpr ⟨e, heff', rfl⟩,
    ByteEffect.apply_sameBlock (v := { v with stream := b :: v.stream }) h e b, e.apply_trace b _⟩

/-- A run over the first byte and then over the others (R93). -/
theorem runBytes_cons {s t : State} {b : Byte} {bs : List Byte} (h : s.stepByte b = .next t) :
    s.runBytes (b :: bs) = t.runBytes bs := by
  rw [State.runBytes, h]

/-- A pass makes the run over the bytes it takes, from any state that agrees with its own. -/
theorem State.Pass.runs {s u v : State} (h : s.Pass u) (hv : v.SameRun s) :
    ∃ c w, s.stream = c ++ u.stream ∧ v.runBytes c = .next w ∧ w.SameRun u := by
  induction h generalizing v with
  | close empty => exact ⟨[], v, rfl, rfl, hv⟩
  | @abort s b q e stream effect ends =>
    obtain ⟨w, hw, hblock, htrace⟩ := hv.1.stepByte effect
    refine ⟨[b], w, by rw [e.apply_stream, stream]; rfl, runBytes_cons hw, hblock, ?_⟩
    rw [htrace, hv.2, e.apply_trace]
  | @next s u b q e stream effect goesOn rest ih =>
    obtain ⟨w, hw, hblock, htrace⟩ := hv.1.stepByte effect
    obtain ⟨c, w', hc, hw', hsame⟩ := ih ⟨hblock, by rw [htrace, hv.2, e.apply_trace]⟩
    rw [e.apply_stream, stream, List.tail_cons] at hc
    exact ⟨b :: c, w', by rw [stream, hc]; rfl, (runBytes_cons hw).trans hw', hsame⟩

/-- Passes with arrivals make one run over all the bytes they take. -/
theorem feedChunks_runs {s t v : State} {chunks : List (List Byte)} (h : s.feedChunks chunks = .next t) (hv : v.SameRun s) :
    ∃ c u, s.stream ++ chunks.flatten = c ++ t.stream ∧ v.runBytes c = .next u ∧ u.SameRun t := by
  induction chunks generalizing s v with
  | nil =>
    cases h
    exact ⟨[], v, List.append_nil _, rfl, hv⟩
  | cons a as ih =>
    obtain ⟨u, hu, h⟩ := feedChunks_cons.mp h
    obtain ⟨c, w, hc, hw, hsame⟩ := (feedPass_iff_pass.mp hu).runs (v := v) hv
    obtain ⟨c', w', hc', hw', hsame'⟩ := ih h hsame
    refine ⟨c ++ c', w', ?_, (runBytes_append hw c').trans hw', hsame'⟩
    have hc : s.stream ++ a = c ++ u.stream := hc
    rw [List.flatten_cons, ← List.append_assoc, hc, List.append_assoc, hc', List.append_assoc]

/-- Settles O57: the run starts in the same block with an empty STREAM, which no byte step reads. -/
theorem chunkingInvariance : Obligations.ChunkingInvariance := fun s _ _ h =>
  feedChunks_runs (v := { s with stream := [] }) h ⟨⟨rfl, rfl, rfl, rfl, rfl⟩, rfl⟩

end Sys2Proof.Machine
end

section
/-! PROOFS. The machine's steps make the passes of R90 (R133), with bytes pushed meanwhile (R90, log 9) and with FEED repeated
(R74); and whatever its runs do but RESET is one run over the bytes taken (R93). -/

namespace Sys2Proof.Machine

/-! ### Reaching a state -/

theorem State.Reaches.refl (s : State) : s.Reaches s := ⟨0, rfl⟩

theorem State.Reaches.of_step {s t u : State} (h : step s = .next t) (h' : t.Reaches u) : s.Reaches u := by
  obtain ⟨n, hn⟩ := h'
  exact ⟨n + 1, (core_run_succ h n).trans hn⟩

/-- A run that answers takes a first step that answers. -/
theorem core_run_succ_next {s t : State} {n : Nat} (h : core.run (n + 1) s = .next t) :
    ∃ u, step s = .next u ∧ core.run n u = .next t := by
  cases hstep : step s with
  | next u => exact ⟨u, rfl, (core_run_succ hstep n).symm.trans h⟩
  | fault f =>
    have hcore : core.step s = .fault f := hstep
    simp [Host.Core.run, hcore] at h
  | refused r =>
    have hcore : core.step s = .refused r := hstep
    simp [Host.Core.run, hcore] at h

theorem core_run_add {s t : State} {n : Nat} (h : core.run n s = .next t) (m : Nat) : core.run (n + m) s = core.run m t := by
  induction n generalizing s with
  | zero =>
    cases h
    rw [Nat.zero_add]
  | succ n ih =>
    obtain ⟨u, hstep, h⟩ := core_run_succ_next h
    rw [Nat.add_right_comm, core_run_succ hstep, ih h]

theorem State.Reaches.trans {s t u : State} (h : s.Reaches t) (h' : t.Reaches u) : s.Reaches u := by
  obtain ⟨n, hn⟩ := h
  obtain ⟨m, hm⟩ := h'
  exact ⟨n + m, (core_run_add hn m).trans hm⟩

/-! ### A pass in steps -/

/-- The host's action while a pass is open: it waits for the pass, or drains. -/
def Input.Waiting (a : Input) : Prop := a = .await ∨ a = .drain

/-- The machine in the pass of `s`: the host waits with action `a`, and the bytes `held` stand behind STREAM, held back for the
next pass (log 9). -/
def State.during (s : State) (a : Input) (rest : List Input) (held : List Byte) : State :=
  { s with inputs := a :: rest, stream := s.stream ++ held, heldBack := held.length }

/-- The machine after a pass that led to `u`: no byte is held back any more. -/
def State.after (u : State) (a : Input) (rest : List Input) (held : List Byte) : State :=
  { u with inputs := a :: rest, stream := u.stream ++ held }

theorem State.during_self {s : State} {a : Input} {rest : List Input} (hin : s.inputs = a :: rest) (h0 : s.heldBack = 0) :
    s.during a rest [] = s := by
  cases s
  cases hin
  cases h0
  simp [State.during]

theorem State.after_self {u : State} {a : Input} {rest : List Input} (hin : u.inputs = a :: rest) :
    u.after a rest [] = u := by
  cases u
  cases hin
  simp [State.after]

section
variable {s : State} {a : Input} {rest : List Input} {held : List Byte}

theorem step_during (ha : a.Waiting) (hp : s.passOpen = true) :
    step (s.during a rest held) = (s.during a rest held).edge 0 := by
  obtain rfl | rfl := ha
  · exact step_await_open rfl hp
  · exact step_drain_open rfl hp

/-- A step in the pass on the byte at the head of STREAM. -/
theorem step_during_byte {b : Byte} {q : List Byte} {e : ByteEffect} (ha : a.Waiting) (hp : s.passOpen = true)
    (hs : s.stream = b :: q) (h : s.Effects b e) :
    step (s.during a rest held) = .next (e.apply b (s.during a rest held)) := by
  have hstream : (s.during a rest held).stream = b :: (q ++ held) := by
    show s.stream ++ held = _
    rw [hs]
    rfl
  have hvalid : (s.during a rest held).inValid = true :=
    inValid_iff.mpr (by rw [hstream]; simp [State.during])
  obtain ⟨b', q', hs', he⟩ := edge_byte (s := s.during a rest held) (hc := 0) rfl hp hvalid
  obtain ⟨rfl, _⟩ := List.cons_eq_cons.mp (hstream.symm.trans hs')
  rw [step_during ha hp, he]
  exact answer_map_next.mpr ⟨e, byteEffect_ok.mpr (h.congr rfl rfl rfl), rfl⟩

theorem consume_during {b : Byte} {q : List Byte} (hs : s.stream = b :: q) :
    (s.during a rest held).consume = s.consume.during a rest held := by
  simp only [State.consume, State.during, hs, List.cons_append, List.tail_cons]

/-- Any byte but one that ends the pass leaves the machine in the pass. -/
theorem apply_during {b : Byte} {q : List Byte} {e : ByteEffect} (hs : s.stream = b :: q) (h : e.event ≠ some .ferrCmd) :
    e.apply b (s.during a rest held) = (e.apply b s).during a rest held := by
  cases e <;> simp only [ByteEffect.apply, consume_during hs]
  case cmdError => exact absurd rfl h
  all_goals rfl

/-- A failing command check ends it, and the bytes held back become STREAM's own. -/
theorem apply_during_of_ends {b : Byte} {q : List Byte} {e : ByteEffect} (hs : s.stream = b :: q)
    (h : e.event = some .ferrCmd) : e.apply b (s.during a rest held) = (e.apply b s).after a rest held := by
  cases e with
  | cmdError =>
    simp only [ByteEffect.apply, consume_during hs]
    rfl
  | discard => cases h
  | store => cases h
  | respError m => cases h
  | record r => cases h

/-- The steps of a pass lead where the pass leads, with the bytes held back still in STREAM (R90, R133). -/
theorem State.Pass.reaches {u : State} (h : s.Pass u) (ha : a.Waiting) (hp : s.passOpen = true) :
    (s.during a rest held).Reaches (u.after a rest held) := by
  induction h with
  | @close s empty =>
    have hnone : (s.during a rest held).inValid = false := by simp [State.inValid, State.during, empty]
    exact .of_step ((step_during ha hp).trans (edge_without_byte rfl hp hnone)) (.refl _)
  | @abort s b q e stream effect ends =>
    refine .of_step (step_during_byte ha hp stream effect) ?_
    rw [apply_during_of_ends stream ends]
    exact .refl _
  | @next s u b q e stream effect goesOn _ ih =>
    refine .of_step (step_during_byte ha hp stream effect) ?_
    rw [apply_during stream goesOn]
    exact ih (by rw [e.apply_passOpen, if_neg goesOn, hp])

/-- A host that waits goes on once the pass is over. -/
theorem State.Pass.reaches_await {u : State} (h : s.Pass u) (hp : s.passOpen = true) (hin : s.inputs = rest) :
    (s.during .await rest held).Reaches { u with stream := u.stream ++ held } := by
  refine (h.reaches (.inl rfl) hp).trans (.of_step ?_ (.refl _))
  have hclosed : ¬ (u.after .await rest held).passOpen = true := by
    show ¬ u.passOpen = true
    simp [h.passOpen]
  have hinputs : u.inputs = rest := h.inputs.trans hin
  simp only [step, State.act, State.after, ← hinputs]
  exact if_neg hclosed

end

theorem ByteEffect.apply_quiet (e : ByteEffect) (b : Byte) (s : State) : e.apply b s.quiet = e.apply b s := by
  cases e <;> rfl

/-- The event output before a pass does not matter to it: each of its edges writes it (R134). -/
theorem State.Pass.quiet {s u : State} (h : s.Pass u) : s.quiet.Pass u := by
  cases h with
  | close empty => exact .close (s := s.quiet) empty
  | abort b q e stream effect ends =>
    rw [← e.apply_quiet]
    exact .abort b q e stream (effect.congr rfl rfl rfl) ends
  | next b q e stream effect goesOn rest =>
    rw [← e.apply_quiet] at rest
    exact .next b q e stream (effect.congr rfl rfl rfl) goesOn rest

/-! ### FEED and wait -/

/-- Settles O53: the edge with feed opens the pass, and the edges of the waiting host make it. -/
theorem stepsRealiseFeedPass : Obligations.StepsRealiseFeedPass := by
  intro s u rest hp hin h
  have hpass := (feedPass_iff_pass.mp h).quiet
  have hstep : step s = .next ((State.setPass { s with inputs := .await :: rest } true).quiet) :=
    (step_edge hin).trans (edge_feed rfl rfl hp)
  have hreach := hpass.reaches_await (held := []) rfl rfl
  rw [List.append_nil] at hreach
  refine .of_step hstep ?_
  have hduring : (State.setPass { s with inputs := .await :: rest } true).quiet =
      ((State.setPass { s with inputs := rest } true).quiet).during .await rest [] := by
    simp [State.during, State.quiet, State.setPass]
  rw [hduring]
  exact hreach

/-- Settles O54: the pass ends at once. -/
theorem emptyFeedChangesNothing : Obligations.EmptyFeedChangesNothing := by
  intro s rest hp hs hin
  have hclose (ins : List Input) : State.feedPass { s with inputs := ins } =
      .next { s with inputs := ins, heldBack := 0, evtValid := false, evtCode := 0 } := by
    simp [State.feedPass, hs, State.feedLoop, State.closePass, State.setPass, State.quiet, hp]
  exact ⟨hclose s.inputs, stepsRealiseFeedPass s _ rest hp hin (hclose rest)⟩

/-! ### Bytes pushed during a pass -/

/-- Settles O56: with no byte held back a push joins STREAM; otherwise its bytes join those held back. -/
theorem bytesPushedDuringPass : Obligations.BytesPushedDuringPass := by
  intro s bs held av rest hs hp hstream hheld
  have hanswer (q : List Byte) : ∃ u, State.feedPass { s with inputs := rest, stream := q } = .next u ∧
      (State.setPass { s with inputs := rest, stream := q } true).Pass u := by
    have hinv : (State.setPass { s with inputs := rest, stream := q } true).Inv :=
      hs.of_sameBlock ⟨rfl, rfl, rfl, rfl, rfl⟩ hs.events ⟨Nat.zero_le _, fun _ => rfl⟩
    obtain ⟨u, hu, _⟩ := hinv.pass rfl rfl
    exact ⟨u, feedPass_iff_pass.mpr hu, hu⟩
  refine ⟨fun hnone hin => ?_, fun hlate => ?_⟩
  · obtain ⟨u, hu, hpass⟩ := hanswer (av ++ bs)
    have hreach := hpass.reaches_await (held := []) rfl rfl
    rw [List.append_nil] at hreach
    have hpush : State.push { s with inputs := .await :: rest } bs false =
        (State.setPass { s with inputs := rest, stream := av ++ bs } true).during .await rest [] := by
      simp [State.push, State.during, State.setPass, hp, hstream, hnone, hheld]
    exact ⟨u, hu, .of_step (step_push hin) (hpush ▸ hreach)⟩
  · obtain ⟨u, hu, hpass⟩ := hanswer av
    have hreach := hpass.reaches_await (held := held ++ bs) rfl rfl
    have hpush (late : Bool) (hcond : (late || s.heldBack != 0) = true) :
        State.push { s with inputs := .await :: rest } bs late =
          (State.setPass { s with inputs := rest, stream := av } true).during .await rest (held ++ bs) := by
      simp only [State.push, hp, hcond]
      simp [State.during, State.setPass, hstream, hheld]
    refine ⟨u, hu, ?_⟩
    obtain ⟨hne, hin⟩ | hin := hlate
    · have hcond : (false || s.heldBack != 0) = true := by simp [hheld, hne]
      exact .of_step (step_push hin) (hpush false hcond ▸ hreach)
    · exact .of_step (step_pushLate hin) (hpush true rfl ▸ hreach)

/-! ### DRAIN -/

/-- DRAIN reaches the end of STREAM: each of its passes takes at least a byte, and adds to one run (R74, R92, R93). -/
theorem drain_reaches {s v : State} {rest : List Input} (hs : s.Inv) (hp : s.passOpen = false)
    (hin : s.inputs = .drain :: rest) (hv : v.SameRun s) :
    ∃ t w, s.Reaches t ∧ t.inputs = rest ∧ t.stream = [] ∧ t.passOpen = false ∧
      v.runBytes s.stream = .next w ∧ w.SameRun t := by
  generalize hn : s.stream.length = n
  induction n using Nat.strong_induction_on generalizing s v with
  | h n ih =>
    by_cases hempty : s.stream = []
    · have hstep : step s = .next { s with inputs := rest } := by
        simp only [step, State.act, hin, hp, hempty, if_true]
        rfl
      refine ⟨_, v, .of_step hstep (.refl _), rfl, hempty, hp, by rw [hempty]; rfl, hv⟩
    · have hstep : step s = .next (s.setPass true).quiet := by
        simp only [step, State.act, hin, if_neg hempty]
        rw [if_neg (by simp [hp]), edge_feed rfl rfl hp]
      have hinv : (s.setPass true).quiet.Inv :=
        hs.of_sameBlock ⟨rfl, rfl, rfl, rfl, rfl⟩ (.of_quiet rfl rfl) ⟨Nat.zero_le _, fun _ => rfl⟩
      obtain ⟨u, hpass, huinv⟩ := hinv.pass rfl rfl
      have hinputs : u.inputs = .drain :: rest := hpass.inputs.trans hin
      have hreach : s.Reaches u := by
        have h := hpass.reaches (a := .drain) (rest := rest) (held := []) (.inr rfl) rfl
        rw [State.during_self (s := (s.setPass true).quiet) hin rfl, State.after_self hinputs] at h
        exact .of_step hstep h
      obtain ⟨c, hc, hne⟩ := hpass.stream
      obtain ⟨c', w, hc', hw, hsame⟩ := hpass.runs (v := v) hv
      obtain rfl : c = c' := List.append_cancel_right (hc.symm.trans hc')
      have hstream : s.stream = c ++ u.stream := hc
      have hlt : u.stream.length < n := by
        have hlen := congrArg List.length hstream
        have hpos := List.length_pos_iff.mpr (hne hempty)
        rw [List.length_append] at hlen
        omega
      obtain ⟨t, w', ht, hti, hts, htp, hw', hsame'⟩ := ih _ hlt huinv hpass.passOpen hinputs hsame rfl
      exact ⟨t, w', hreach.trans ht, hti, hts, htp, by rw [hstream, runBytes_append hw, hw'], hsame'⟩

/-- Settles O59: the run starts in the same block with an empty STREAM, which no byte step reads. -/
theorem drainEmptiesStream : Obligations.DrainEmptiesStream := fun s _ hs hp hin =>
  drain_reaches (v := { s with stream := [] }) hs hp hin ⟨⟨rfl, rfl, rfl, rfl, rfl⟩, rfl⟩

/-! ### Runs of the machine -/

/-- An edge without rst takes at most one byte, and does what the byte step does on any state that agrees with its own. -/
theorem State.EdgeTo.runs {s t v : State} {hc : BitVec 2} (h : s.EdgeTo hc t) (hb : hc.getLsbD 1 = false)
    (hv : v.SameBlock s) (htrace : blockEventsOf v.trace = blockEventsOf s.trace) :
    t.inputs = s.inputs ∧ ∃ c w, s.stream = c ++ t.stream ∧ v.runBytes c = .next w ∧ w.SameBlock t ∧
      blockEventsOf w.trace = blockEventsOf t.trace := by
  cases h with
  | reset rst => cases hb.symm.trans rst
  | feed noRst strobe closed => exact ⟨rfl, [], v, rfl, rfl, hv, htrace⟩
  | idle noRst noStrobe closed => exact ⟨rfl, [], v, rfl, rfl, hv, htrace⟩
  | close noRst opened noByte => exact ⟨rfl, [], v, rfl, rfl, hv, htrace⟩
  | byte noRst opened valid b q stream e effect =>
    obtain ⟨w, hw, hblock, hwtrace⟩ := hv.stepByte effect
    refine ⟨e.apply_inputs b s, [b], w, by rw [e.apply_stream, stream]; rfl, runBytes_cons hw, hblock, ?_⟩
    rw [hwtrace, e.apply_trace, blockEventsOf_append, blockEventsOf_append, htrace]

theorem pushedBytes_append (as bs : List Input) : pushedBytes (as ++ bs) = pushedBytes as ++ pushedBytes bs :=
  List.flatMap_append

/-- One step without rst: the actions it takes from the environment, the bytes it takes from what STREAM held and received, and
the run over them. -/
theorem step_runs {s t v : State} (h : step s = .next t) (hrst : ∀ hc, .edge hc ∈ s.inputs → hc.getLsbD 1 = false)
    (hv : v.SameBlock s) (htrace : blockEventsOf v.trace = blockEventsOf s.trace) :
    ∃ done c w, s.inputs = done ++ t.inputs ∧ s.stream ++ pushedBytes done = c ++ t.stream ∧ v.runBytes c = .next w ∧
      w.SameBlock t ∧ blockEventsOf w.trace = blockEventsOf t.trace := by
  cases step_turn h with
  | action a taken block stream events =>
    exact ⟨[a], [], v, taken, stream.symm, rfl, hv.trans block, htrace.trans events.symm⟩
  | edge hc ins taken leads =>
    obtain hin | ⟨hin, hb⟩ := taken
    · obtain ⟨hinputs, c, w, hc', hw, hblock, hw'⟩ := leads.runs (hrst hc (by simp [hin])) (v := v) hv htrace
      exact ⟨[.edge hc], c, w, by rw [hin, hinputs]; rfl, (List.append_nil _).trans hc', hw, hblock, hw'⟩
    · obtain ⟨hinputs, c, w, hc', hw, hblock, hw'⟩ := leads.runs hb (v := v) hv htrace
      exact ⟨[], c, w, by rw [hin, hinputs]; rfl, (List.append_nil _).trans hc', hw, hblock, hw'⟩

/-- The steps of a run without rst add up to one run over the bytes they take. -/
theorem core_run_runs {s t v : State} {n : Nat} (h : core.run n s = .next t)
    (hrst : ∀ hc, .edge hc ∈ s.inputs → hc.getLsbD 1 = false) (hv : v.SameBlock s)
    (htrace : blockEventsOf v.trace = blockEventsOf s.trace) :
    ∃ done c w, s.inputs = done ++ t.inputs ∧ s.stream ++ pushedBytes done = c ++ t.stream ∧ v.runBytes c = .next w ∧
      w.SameBlock t ∧ blockEventsOf w.trace = blockEventsOf t.trace := by
  induction n generalizing s v with
  | zero =>
    cases h
    exact ⟨[], [], v, rfl, List.append_nil _, rfl, hv, htrace⟩
  | succ n ih =>
    obtain ⟨u, hstep, h⟩ := core_run_succ_next h
    obtain ⟨done, c, w, hin, hc, hw, hblock, hwtrace⟩ := step_runs hstep hrst hv htrace
    obtain ⟨done', c', w', hin', hc', hw', hblock', hwtrace'⟩ :=
      ih h (fun hc hmem => hrst hc (hin ▸ List.mem_append_right _ hmem)) hblock hwtrace
    refine ⟨done ++ done', c ++ c', w', ?_, ?_, (runBytes_append hw c').trans hw', hblock', hwtrace'⟩
    · rw [hin, hin', List.append_assoc]
    · rw [pushedBytes_append, ← List.append_assoc, hc, List.append_assoc, hc', List.append_assoc]

/-- Settles O58: the run starts in the same block with an empty STREAM, which no byte step reads. -/
theorem chunkingOfRuns : Obligations.ChunkingOfRuns := fun s _ _ hrst h =>
  core_run_runs (v := { s with stream := [] }) h hrst ⟨rfl, rfl, rfl, rfl, rfl⟩ rfl

end Sys2Proof.Machine
end
